-- ==== Sys2Proof/Word.lean ====
section
/-! DEFINITION. The word types of the machine (spec 00_scope R5) and the sizes an operand or an address can have
(00_scope R6). -/

namespace Sys2Proof

/-- 8 bits (R5). -/
abbrev Byte := BitVec 8

/-- 16 bits (R5). -/
abbrev Word := BitVec 16

/-- 32 bits (R5). -/
abbrev Dword := BitVec 32

/-- A size attribute: `OS`, `AS`, the stack address size `SA`, `DEFAULT_SIZE` (R6). -/
inductive OSize where
  | s16
  | s32
  deriving DecidableEq, Repr, Inhabited

/-- The width of an operand: byte, word, double word (R5). -/
inductive Width where
  | byte
  | word
  | dword
  deriving DecidableEq, Repr, Inhabited

/-- The operand width in bits. -/
abbrev Width.bits : Width → Nat
  | .byte => 8
  | .word => 16
  | .dword => 32

/-- The operand width in bytes. -/
abbrev Width.bytes : Width → Nat
  | .byte => 1
  | .word => 2
  | .dword => 4

/-- The width of a full-size operand under a size attribute. -/
abbrev OSize.width : OSize → Width
  | .s16 => .word
  | .s32 => .dword

/-- The other size: what a 66h or 67h byte toggles to (30_encoding R111). -/
abbrev OSize.toggle : OSize → OSize
  | .s16 => .s32
  | .s32 => .s16

/-- Width `n` of an operand selected by a `w` bit (30_encoding R119). -/
abbrev opWidth (w : Bool) (os : OSize) : Width :=
  if w then os.width else .byte

end Sys2Proof
end

