-- ==== Sys2Proof/Config.lean ====
section
/-! DEFINITION. What the spec leaves open: its named parameters (92_eei_decisions) and the free values `draw(N)`
(00_scope R7). Every constant here is opaque: nothing in Lean can evaluate it, so what is proved of the model holds for
every value. -/

namespace Sys2Proof.Config

/-- `STACK_SIZE_RULE` (92 D3, 20_memory R89). -/
inductive StackSizeRule where
  /-- the source: the address size of the instruction -/
  | addressSize
  /-- general knowledge: the B bit of the SS descriptor -/
  | ssBBit
  deriving DecidableEq, Repr, Inhabited

/-- `POP_SP_ORDER` (92 D8, 40_stack R151–R152): the two settings that give the instruction an effect. -/
inductive PopSpOrder where
  /-- the source: load, then increment -/
  | source
  /-- general knowledge: the loaded value is final, an address uses the incremented pointer -/
  | incrementFirst
  deriving DecidableEq, Repr, Inhabited

/-- `RET_OUTER_IMM` (92 D40, 42_ret R240). -/
inductive RetOuterImm where
  /-- the source: the new stack pointer is the popped image -/
  | none
  /-- general knowledge: the immediate is added to it as well -/
  | add
  deriving DecidableEq, Repr, Inhabited

/-- The uses of `draw(N)` inside one step; each reads its own free value. -/
inductive Slot where
  | cf | pf | af | zf | sf | of
  /-- the result of SHLD/SHRD past the width (41 R199) -/
  | result
  /-- bits 31:16 of a register written by SLDT, STR, SMSW (46 R337) -/
  | upper
  /-- bits 31:24 of the base stored by SGDT, SIDT (46 R333) -/
  | baseTop
  /-- bits 17:16 of the PUSHFD image (40 R174) -/
  | vmRf
  /-- RET's mixed case for a data register (42 R241) -/
  | keepEs | keepFs | keepGs | keepDs
  /-- whether a pending interrupt is taken at this boundary (60 R423) -/
  | interrupt
  deriving DecidableEq, Repr, Inhabited

/-- A free bit: `draw(1)` in step number `count` (00_scope R7; log 22). -/
opaque drawBit (count : Nat) (slot : Slot) : Bool

/-- A free word: `draw(N)` for N up to 32, its low N bits used (00_scope R7; log 22). -/
opaque drawWord (count : Nat) (slot : Slot) : BitVec 32

/-- Read only where the two readings of `STACK_SIZE_RULE` differ (log 2). -/
opaque stackSizeRule : StackSizeRule

/-- Read only by a POP into (E)SP or through an (E)SP-based address (log 3). -/
opaque popSpOrder : PopSpOrder

/-- Read only by an outer-level far RET with a non-zero immediate (log 4). -/
opaque retOuterImm : RetOuterImm

/-- `V86_POPA_IOPL` (92 D39): whether POPA/POPAD faults in V86 mode with IOPL below 3 (log 5). -/
opaque v86PopaFaults : Bool

/-- `InLimit` of an expand-down segment: limit, offset, number of bytes (20_memory R76, 91 N13; log 17). -/
opaque inLimitExpandDown (limit : BitVec 32) (off n : Nat) : Bool

/-- Whether a byte the coprocessor has issued a store to reads as new before WAIT: step,
address, place of the store in the list of those pending (70 R464; log 20). -/
opaque coprocSeen (count addr nth : Nat) : Bool

/-- Whether the coprocessor's store wins over a processor store made meanwhile: step, address (20 R95; log 20). -/
opaque coprocWins (count addr : Nat) : Bool

/-- Which of the values a byte has held since the last control transfer is fetched: step, address (20 R98; log 21). -/
opaque staleChoice (count addr : Nat) : Nat

end Sys2Proof.Config
end

