-- ==== Sys2Proof/Syntax.lean ====
section
/-! DEFINITION. The instructions: one constructor of `Instr` per row of spec/opcode_table.json, over the operand forms of
30_encoding R110–R123. An 11-row tail of the table are the prefix bytes of R111, which the table lists as rows of their own;
they are constructors too. -/

namespace Sys2Proof

/-- A general-register number 0…7 (10_state R23). What register it names depends on the operand width. -/
inductive RegNum where
  | n0 | n1 | n2 | n3 | n4 | n5 | n6 | n7
  deriving DecidableEq, Repr, Inhabited

/-- A segment register (10_state R40, R42). -/
inductive SReg where
  | es | cs | ss | ds | fs | gs
  deriving DecidableEq, Repr, Inhabited

/-- The eight base forms of 16-bit addressing (30_encoding R116). -/
inductive Base16 where
  | bxSi | bxDi | bpSi | bpDi | si | di | bp | bx
  deriving DecidableEq, Repr, Inhabited

/-- The displacement of a 16-bit address (R116). -/
inductive Disp16 where
  | none
  | d8 (v : Byte)
  | d16 (v : BitVec 16)
  deriving DecidableEq, Repr, Inhabited

/-- The displacement of a 32-bit address (R114–R115). -/
inductive Disp32 where
  | none
  | d8 (v : Byte)
  | d32 (v : BitVec 32)
  deriving DecidableEq, Repr, Inhabited

/-- The scale field `ss` of a SIB byte (R115). -/
inductive Scale where
  | x1 | x2 | x4 | x8
  deriving DecidableEq, Repr, Inhabited

/-- A memory operand as its ModRM (and SIB) bytes give it (R114–R116). -/
inductive Mem where
  /-- AS = 16, a base form and a displacement -/
  | base16 (b : Base16) (d : Disp16)
  /-- AS = 16, mod 00, r/m 110 -/
  | abs16 (d : BitVec 16)
  /-- AS = 32, a base register and a displacement, no SIB -/
  | base32 (b : RegNum) (d : Disp32)
  /-- AS = 32, mod 00, r/m 101 -/
  | abs32 (d : BitVec 32)
  /-- AS = 32 with SIB; index number 4 means no index -/
  | sib (ss : Scale) (index base : RegNum) (d : Disp32)
  /-- AS = 32 with SIB, base 101, mod 00: no base, a 32-bit displacement -/
  | sibAbs (ss : Scale) (index : RegNum) (d : BitVec 32)
  deriving DecidableEq, Repr, Inhabited

/-- An r/m operand (R113). -/
inductive RM where
  | reg (r : RegNum)
  | mem (m : Mem)
  deriving DecidableEq, Repr, Inhabited

/-- Immediate data as it stands in the instruction (R121). -/
inductive Imm where
  | i8 (v : Byte)
  | i16 (v : BitVec 16)
  | i32 (v : BitVec 32)
  deriving DecidableEq, Repr, Inhabited

/-- The instructions. `w` and `s` are the encoding's bits of those names (R119, R121). -/
inductive Instr where
  -- stack family (40_stack)
  | popRm (rm : RM)
  | popR (r : RegNum)
  | popEs
  | popSs
  | popDs
  | popFs
  | popGs
  | popa
  | popad
  | popf
  | popfd
  | pushRm (rm : RM)
  | pushR (r : RegNum)
  | pushFs
  | pushGs
  | pushEs
  | pushCs
  | pushSs
  | pushDs
  | pushImm (imm : Imm)
  | pushImm8 (imm : Byte)
  | pusha
  | pushad
  | pushf
  | pushfd
  -- rotates and shifts (41_rotate_shift)
  | rol1 (w : Bool) (rm : RM)
  | rolCl (w : Bool) (rm : RM)
  | rolImm (w : Bool) (rm : RM) (n : Byte)
  | ror1 (w : Bool) (rm : RM)
  | rorCl (w : Bool) (rm : RM)
  | rorImm (w : Bool) (rm : RM) (n : Byte)
  | rcl1 (w : Bool) (rm : RM)
  | rclCl (w : Bool) (rm : RM)
  | rclImm (w : Bool) (rm : RM) (n : Byte)
  | rcr1 (w : Bool) (rm : RM)
  | rcrCl (w : Bool) (rm : RM)
  | rcrImm (w : Bool) (rm : RM) (n : Byte)
  | shl1 (w : Bool) (rm : RM)
  | shlCl (w : Bool) (rm : RM)
  | shlImm (w : Bool) (rm : RM) (n : Byte)
  | shr1 (w : Bool) (rm : RM)
  | shrCl (w : Bool) (rm : RM)
  | shrImm (w : Bool) (rm : RM) (n : Byte)
  | sar1 (w : Bool) (rm : RM)
  | sarCl (w : Bool) (rm : RM)
  | sarImm (w : Bool) (rm : RM) (n : Byte)
  | shldImm (rm : RM) (r : RegNum) (n : Byte)
  | shldCl (rm : RM) (r : RegNum)
  | shrdImm (rm : RM) (r : RegNum) (n : Byte)
  | shrdCl (rm : RM) (r : RegNum)
  -- return (42_ret)
  | retNear
  | retNearImm (imm : BitVec 16)
  | retFar
  | retFarImm (imm : BitVec 16)
  -- flag instructions (43_flag_control)
  | sahf
  | seto (rm : RM)
  | setno (rm : RM)
  | setb (rm : RM)
  | setnb (rm : RM)
  | sete (rm : RM)
  | setne (rm : RM)
  | setbe (rm : RM)
  | setnbe (rm : RM)
  | sets (rm : RM)
  | setns (rm : RM)
  | setp (rm : RM)
  | setnp (rm : RM)
  | setl (rm : RM)
  | setnl (rm : RM)
  | setle (rm : RM)
  | setnle (rm : RM)
  | stc
  | std
  | sti
  -- arithmetic and logic (44_arith_logic)
  | sbbRmR (w : Bool) (rm : RM) (r : RegNum)
  | sbbRRm (w : Bool) (r : RegNum) (rm : RM)
  | sbbRmImm (s w : Bool) (rm : RM) (imm : Imm)
  | sbbAccImm (w : Bool) (imm : Imm)
  | testRmR (w : Bool) (rm : RM) (r : RegNum)
  | testRmImm (w : Bool) (rm : RM) (imm : Imm)
  | testAccImm (w : Bool) (imm : Imm)
  | subRmR (w : Bool) (rm : RM) (r : RegNum)
  | subRRm (w : Bool) (r : RegNum) (rm : RM)
  | subRmImm (s w : Bool) (rm : RM) (imm : Imm)
  | subAccImm (w : Bool) (imm : Imm)
  | xorRmR (w : Bool) (rm : RM) (r : RegNum)
  | xorRRm (w : Bool) (r : RegNum) (rm : RM)
  | xorRmImm (s w : Bool) (rm : RM) (imm : Imm)
  | xorAccImm (w : Bool) (imm : Imm)
  -- strings (45_string)
  | scasb
  | scasw
  | scasd
  | stosb
  | stosw
  | stosd
  | repPfx
  | repnePfx
  -- system-register stores and segment checks (46_system_store)
  | sgdt (rm : RM)
  | sidt (rm : RM)
  | sldt (rm : RM)
  | smsw (rm : RM)
  | str (rm : RM)
  | verr (rm : RM)
  | verw (rm : RM)
  -- WAIT, XCHG, XLATB (47_wait_xchg_xlat)
  | wait
  | xchgRmR (w : Bool) (rm : RM) (r : RegNum)
  | xchgAccR (r : RegNum)
  | xlatb
  -- prefix bytes (30_encoding R111, R136)
  | opSizePfx
  | addrSizePfx
  | csPfx
  | ssPfx
  | dsPfx
  | esPfx
  | fsPfx
  | gsPfx
  | lockPfx
  deriving DecidableEq, Repr, Inhabited

end Sys2Proof
end

