-- ==== Sys2Proof/Machine/State.lean ====
section
/-! DEFINITION. The state of the machine (spec 10_state, 70_reset_and_hazards R451), the reasons a step stops
(00_scope R8, 60_exceptions R400–R407, 93 part 2), and the machine right after reset. Plain data throughout. -/

namespace Sys2Proof.Machine

/-- The general registers (10_state R20), in the order of their numbers (R23). -/
structure Regs where
  eax : Dword
  ecx : Dword
  edx : Dword
  ebx : Dword
  esp : Dword
  ebp : Dword
  esi : Dword
  edi : Dword
  deriving DecidableEq, Repr

/-- What a descriptor describes (10_state R41, 20_memory R79). -/
inductive SegKind where
  /-- a data segment; expand-down limits are not in the source (91 N13) -/
  | data (writable expandDown : Bool)
  /-- a code segment -/
  | code (readable conforming : Bool)
  /-- a system segment or a gate (46_system_store R348) -/
  | system
  deriving DecidableEq, Repr

/-- A descriptor, as the oracle `Desc` gives it and as a segment register's hidden cache holds it (R41, R79). -/
structure Descriptor where
  kind : SegKind
  dpl : BitVec 2
  present : Bool
  base : Dword
  limit : Dword
  /-- the size attribute: `DEFAULT_SIZE` of a code segment, the stack size of SS (70 R451); set means 32 -/
  big : Bool
  deriving DecidableEq, Repr

/-- A segment register: the selector, the hidden descriptor cache, the validity flag (10_state R40–R41). -/
structure SegReg where
  selector : Word
  cache : Descriptor
  valid : Bool
  deriving DecidableEq, Repr

/-- The six segment registers (R40). -/
structure SegRegs where
  es : SegReg
  cs : SegReg
  ss : SegReg
  ds : SegReg
  fs : SegReg
  gs : SegReg
  deriving DecidableEq, Repr

/-- GDTR and IDTR (10_state R47–R48). -/
structure TableReg where
  limit : Word
  base : Dword
  deriving DecidableEq, Repr

/-- LDTR: a selector and a hidden descriptor (10_state R49). -/
structure LdtReg where
  selector : Word
  cache : Descriptor
  deriving DecidableEq, Repr

/-- What reading a descriptor gives (20_memory R79, 40_stack R155 row 7). -/
inductive DescAnswer where
  | found (d : Descriptor)
  /-- the descriptor lies on a page that faults, with the error code and the linear address -/
  | pageFault (code : Word) (linear : Dword)
  deriving DecidableEq, Repr

/-- One entry of the oracle `Desc`, keyed by the selector's index and table indicator, bits 15:2 (R79; log 13). A key in
no entry is out of its table. -/
structure DescEntry where
  key : BitVec 14
  answer : DescAnswer
  deriving DecidableEq, Repr

/-- What one page walk gives (20_memory R78). -/
inductive PageAnswer where
  /-- the first linear address of the entry lies at this physical address -/
  | mapped (phys : Dword)
  | fault (code : Word)
  deriving DecidableEq, Repr

/-- One entry of the oracle `PageWalk` (R78; log 14): a range of linear addresses, and whether it speaks of reads, of
writes, of one privilege level. -/
structure PageEntry where
  first : Dword
  last : Dword
  reads : Bool
  writes : Bool
  level : Option (BitVec 2)
  answer : PageAnswer
  deriving DecidableEq, Repr

/-- What stands at a populated range of physical addresses (20_memory R88, R100). -/
inductive RegionKind where
  | ram
  | device
  deriving DecidableEq, Repr

/-- A populated range of physical addresses: `size` bytes from `first` (R100). -/
structure Region where
  first : Nat
  size : Nat
  kind : RegionKind
  deriving DecidableEq, Repr

/-- The input pins as sampled at this step (10_state R51, R53); true means active. -/
structure Pins where
  busy : Bool
  error : Bool
  intr : Bool
  deriving DecidableEq, Repr

/-- One step's input: the pins, and the stores the coprocessor issues (20_memory R94). -/
structure Input where
  pins : Pins
  stores : List Host.Cell
  deriving DecidableEq, Repr

/-- A coprocessor store issued and not yet ordered by a WAIT (20_memory R96); `raced` when the processor has written the
byte meanwhile. -/
structure CopStore where
  addr : Nat
  byte : Byte
  raced : Bool
  deriving DecidableEq, Repr

/-- The repeat prefix in force (30_encoding R111). -/
inductive Rep where
  /-- F3h -/
  | rep
  /-- F2h -/
  | repne
  deriving DecidableEq, Repr

/-- What has been consumed of the instruction being decoded: the model's own, idle between steps (log 23). -/
structure Cur where
  /-- prefix bytes consumed -/
  len : Nat
  /-- a 66h was seen -/
  os : Bool
  /-- a 67h was seen -/
  as : Bool
  seg : Option SReg
  rep : Option Rep
  lock : Bool
  /-- `next` of 00_scope R7: the EIP of the instruction that follows in memory -/
  next : Dword
  deriving DecidableEq, Repr

/-- No instruction begun. -/
def Cur.idle : Cur :=
  { len := 0, os := false, as := false, seg := none, rep := none, lock := false, next := 0 }

/-- The machine (10_state; 70 R451). -/
structure State where
  regs : Regs
  eip : Dword
  eflags : Dword
  segs : SegRegs
  cr0 : Dword
  cr2 : Dword
  gdtr : TableReg
  idtr : TableReg
  ldtr : LdtReg
  tr : Word
  /-- the interrupt inhibit (10_state R52) -/
  inhibit : Bool
  pins : Pins
  inputs : List Input
  coproc : List CopStore
  /-- memory: address and byte, in the canonical form of `Memory.wf` (20_memory R80) -/
  mem : List Host.Cell
  populated : List Region
  descs : List DescEntry
  pages : List PageEntry
  /-- bytes replaced since the last control transfer (20_memory R98) -/
  stale : List Host.Cell
  /-- the number of the step, which indexes the free values (00_scope R7 `draw`) -/
  draws : Nat
  cur : Cur
  deriving DecidableEq, Repr

/-- The exceptions the source names (60_exceptions R401). -/
inductive Exc where
  | ud
  | nm
  | np
  | ss
  | gp
  | pf
  | mf
  deriving DecidableEq, Repr

/-- Why the machine stops with an outcome of its own. -/
inductive Fault where
  /-- `Fault(vector, error_code, CR2)` of R400: raised by an instruction or by its fetch, terminal; `after` is the state
  left, the state before the instruction but for CR2. Safe: nothing is claimed of what a handler does. -/
  | raised (x : Exc) (code : Option Word) (after : State)
  /-- `Shutdown` of R407: raised by a real-mode push whose item reaches past FFFFh (40_stack R170, 90 C41). Unsafe with
  a 32-bit stack pointer (log 43), else safe. -/
  | shutdown
  /-- `Interrupt(saved EIP)` of R423: raised by the step at a boundary where a request is pending, IF is 1 and the inhibit
  is 0. Safe: it may also not be taken, by a free choice. -/
  | interrupt (savedEip : Dword)
  deriving DecidableEq, Repr

/-- Why the model gives no meaning (`Refuse` of 00_scope R8; 93 part 2). -/
inductive Refusal where
  /-- an instruction whose meaning is not written; raised by no arm of the finished model. Safe. -/
  | notModelled (mnemonic : String)
  /-- an opcode, two-byte opcode or extension slot not in the source's tables (F1); raised by the step's decoding. Safe. -/
  | notInSource
  /-- a LOCK prefix (F3; 30_encoding R136, 92 D22); `listed`: the instruction is on R136's list of those the 80386 lets it
  precede; raised by the step. Safe. -/
  | lockPrefix (listed : Bool)
  /-- a repeat prefix with no defined effect on its instruction (F2); raised by the step. Safe. -/
  | pfxUndefined
  /-- an instruction longer than 15 bytes (F4); raised by the step's fetch. Safe. -/
  | tooLong
  /-- an access outside the populated memory (F11); raised by any access or fetch. Safe. -/
  | unpopulated
  /-- an access to a memory-mapped device, whose behaviour is not in the source (F11); raised by any access or fetch. Safe. -/
  | deviceMemory
  /-- a POPF or POPFD whose image sets TF (F7; 40_stack R160, 60_exceptions R438), and execution with TF = 1 (F12), the
  single-step trap not being in the source; raised by those two, and by the step. Safe. -/
  | singleStep
  deriving DecidableEq, Repr

/-- How a meaning stops before the state it stopped in is attached to it. -/
inductive Stop where
  /-- `raise #XX(code)`, with the value CR2 takes if it is a page fault -/
  | exc (x : Exc) (code : Option Word) (cr2 : Option Dword)
  | shutdown
  | refuse (r : Refusal)
  deriving DecidableEq, Repr

/-- The hidden cache of a data segment register after reset (10_state section 7: base 0, limit FFFFh). -/
def resetCache : Descriptor :=
  { kind := .data true false, dpl := 0, present := true, base := 0, limit := 0xFFFF, big := false }

/-- A data segment register after reset. -/
def resetSeg : SegReg := { selector := 0, cache := resetCache, valid := true }

/-- CS after reset: selector F000h, base FFFF0000h, limit FFFFh (10_state section 7). -/
def resetCs : SegReg :=
  { selector := 0xF000,
    cache := { kind := .code true false, dpl := 0, present := true, base := 0xFFFF0000, limit := 0xFFFF, big := false },
    valid := true }

/-- The machine right after reset: the values of 10_state section 7 (marked there as general knowledge of the 80386), and
zero where that table says undefined (logs 8–12). DESIGN CHOICE: what 70 R451 leaves to `INITIAL_STATE` without a value
starts empty or inactive: no entry of `Desc` (log 13) and of `PageWalk` (log 14), no input sample (log 18), no pending
coprocessor store (log 20), no stale code byte (log 21). -/
def State.reset : State :=
  { regs := { eax := 0, ecx := 0, edx := 0x308, ebx := 0, esp := 0, ebp := 0, esi := 0, edi := 0 },
    eip := 0xFFF0,
    eflags := 2,
    segs := { es := resetSeg, cs := resetCs, ss := resetSeg, ds := resetSeg, fs := resetSeg, gs := resetSeg },
    cr0 := 0x10,
    cr2 := 0,
    gdtr := { limit := 0, base := 0 },
    idtr := { limit := 0x3FF, base := 0 },
    ldtr := { selector := 0,
              cache := { kind := .system, dpl := 0, present := false, base := 0, limit := 0, big := false } },
    tr := 0,
    inhibit := false,
    pins := { busy := false, error := false, intr := false },
    inputs := [],
    coproc := [],
    mem := [],
    populated := [{ first := 0, size := 2 ^ 32, kind := .ram }],
    descs := [],
    pages := [],
    stale := [],
    draws := 0,
    cur := Cur.idle }

end Sys2Proof.Machine
end

