-- ==== Sys2Proof/Machine/Flags.lean ====
section
/-! DEFINITION. EFLAGS: the bit positions (10_state R29), the flag computations (44_arith_logic R281–R282), the conditions of
SETcc (43_flag_control R262), what POPF writes (40_stack R160). -/

namespace Sys2Proof.Machine

/-! ## Bit positions (R29) -/

/-- The named bits of EFLAGS. -/
inductive Flag where
  | cf | pf | af | zf | sf | tf | fi | df | of | nt | rf | vm
  deriving DecidableEq, Repr

/-- The position of a flag (R29); `fi` is IF. -/
def Flag.pos : Flag → Nat
  | .cf => 0
  | .pf => 2
  | .af => 4
  | .zf => 6
  | .sf => 7
  | .tf => 8
  | .fi => 9
  | .df => 10
  | .of => 11
  | .nt => 14
  | .rf => 16
  | .vm => 17

/-- One bit of a word, as a word. -/
def bitMask (i : Nat) : Dword := 1#32 <<< i

/-- A word with bit `i` written. -/
def putBit (f : Dword) (i : Nat) (b : Bool) : Dword :=
  if b then f ||| bitMask i else f &&& ~~~ bitMask i

/-- A flag of EFLAGS. -/
def flag (f : Dword) (x : Flag) : Bool := f.getLsbD x.pos

/-- EFLAGS with a flag written. -/
def setFlag (f : Dword) (x : Flag) (b : Bool) : Dword := putBit f x.pos b

/-- IOPL, bits 13:12 (R38). -/
def iopl (f : Dword) : BitVec 2 := f.extractLsb' 12 2

/-! ## The status flags -/

/-- The six status flags of a result. -/
structure Status where
  cf : Bool
  pf : Bool
  af : Bool
  zf : Bool
  sf : Bool
  of : Bool
  deriving DecidableEq, Repr

/-- EFLAGS with the six status flags written. -/
def setStatus (f : Dword) (t : Status) : Dword :=
  setFlag (setFlag (setFlag (setFlag (setFlag (setFlag f .cf t.cf) .pf t.pf) .af t.af) .zf t.zf) .sf t.sf) .of t.of

/-- The six status flags of EFLAGS. -/
def getStatus (f : Dword) : Status :=
  { cf := flag f .cf, pf := flag f .pf, af := flag f .af, zf := flag f .zf, sf := flag f .sf, of := flag f .of }

/-- Even parity of a byte: an even number of 1 bits (10_state R31). -/
def evenParity (b : Byte) : Bool :=
  !(b.getLsbD 0 ^^ b.getLsbD 1 ^^ b.getLsbD 2 ^^ b.getLsbD 3 ^^ b.getLsbD 4 ^^ b.getLsbD 5 ^^ b.getLsbD 6 ^^ b.getLsbD 7)

/-- PF of a result: the parity of its low 8 bits (R31). -/
def parityOf {n : Nat} (r : BitVec n) : Bool := evenParity (r.setWidth 8)

/-- The difference `a − b − c` modulo 2^n (R281). -/
def subResult {n : Nat} (a b : BitVec n) (c : Bool) : BitVec n := a - b - (BitVec.ofBool c).setWidth n

/-- `SubFlags(a, b, c, n)` (R281). -/
def subFlags {n : Nat} (a b : BitVec n) (c : Bool) : Status :=
  let r := subResult a b c
  { cf := decide (a.toNat < b.toNat + c.toNat),
    of := a.msb != b.msb && r.msb != a.msb,
    sf := r.msb,
    zf := r == 0#n,
    af := decide (a.toNat % 16 < b.toNat % 16 + c.toNat),
    pf := parityOf r }

/-- `LogicFlags(r, n)` (R282), with AF a free value (R292, R303; 92 D21). -/
def logicFlags {n : Nat} (draws : Nat) (r : BitVec n) : Status :=
  { cf := false, of := false, sf := r.msb, zf := r == 0#n, pf := parityOf r, af := Config.drawBit draws .af }

/-! ## Conditions (R262) -/

/-- The sixteen conditions, by their mnemonics in the opcode table. -/
inductive Cond where
  | o | no | b | nb | e | ne | be | nbe | s | ns | p | np | l | nl | le | nle
  deriving DecidableEq, Repr

/-- `cond(cccc)` (R262). -/
def Cond.holds (f : Dword) : Cond → Bool
  | .o => flag f .of
  | .no => !flag f .of
  | .b => flag f .cf
  | .nb => !flag f .cf
  | .e => flag f .zf
  | .ne => !flag f .zf
  | .be => flag f .cf || flag f .zf
  | .nbe => !flag f .cf && !flag f .zf
  | .s => flag f .sf
  | .ns => !flag f .sf
  | .p => flag f .pf
  | .np => !flag f .pf
  | .l => flag f .sf != flag f .of
  | .nl => flag f .sf == flag f .of
  | .le => flag f .zf || (flag f .sf != flag f .of)
  | .nle => !flag f .zf && (flag f .sf == flag f .of)

/-! ## POPF (R160) -/

/-- The bits POPF always writes: CF, PF, AF, ZF, SF, TF, DF, OF, NT (R160). -/
def popfAlways : Dword := 0x4DD5

/-- The bits POPF writes: IF and IOPL only under their privilege conditions (R160). -/
def popfMask (writeIf writeIopl : Bool) : Dword :=
  popfAlways ||| (if writeIf then 0x200 else 0) ||| (if writeIopl then 0x3000 else 0)

/-- `merge(old, v)`: the masked bits from the image, the others as they were (R160). -/
def popfMerge (writeIf writeIopl : Bool) (old image : Dword) : Dword :=
  (old &&& ~~~ popfMask writeIf writeIopl) ||| (image &&& popfMask writeIf writeIopl)

end Sys2Proof.Machine
end

