-- ==== Sys2Proof/Machine/Memory.lean ====
section
/-! DEFINITION. Memory as bytes at physical addresses (20_memory R80), its canonical form, the byte order (R81), and what a
store leaves beside it: the bytes a prefetch may still hold (R98) and the races with the coprocessor (R94–R96). -/

namespace Sys2Proof.Machine

/-- What an unlisted address reads as (log 10: the spec states no contents; DESIGN CHOICE zero). -/
def Memory.unlisted : Byte := 0

/-- The byte at an address. -/
def Memory.get : List Host.Cell → Nat → Byte
  | [], _ => Memory.unlisted
  | (k, v) :: rest, a => if k = a then v else Memory.get rest a

/-- Memory with one byte written, in canonical form. -/
def Memory.set : List Host.Cell → Nat → Byte → List Host.Cell
  | [], a, v => if v = Memory.unlisted then [] else [(a, v)]
  | (k, x) :: rest, a, v =>
    if a < k then (if v = Memory.unlisted then (k, x) :: rest else (a, v) :: (k, x) :: rest)
    else if a = k then (if v = Memory.unlisted then rest else (a, v) :: rest)
    else (k, x) :: Memory.set rest a v

/-- The canonical form: addresses below 2^32, strictly rising, no byte listed that an unlisted address reads as. -/
def Memory.wf : List Host.Cell → Bool
  | [] => true
  | (k, v) :: rest =>
    decide (k < 2 ^ 32) && v != Memory.unlisted
      && (match rest with
          | [] => true
          | (k', _) :: _ => decide (k < k'))
      && Memory.wf rest

/-! ## Byte order (R81) -/

/-- The number whose bytes these are, lowest address first. -/
def leNat : List Byte → Nat
  | [] => 0
  | b :: rest => b.toNat + 256 * leNat rest

/-- The `n` low bytes of a number, lowest address first. -/
def leBytes : Nat → Nat → List Byte
  | 0, _ => []
  | n + 1, v => BitVec.ofNat 8 v :: leBytes n (v / 256)

/-! ## A byte as the processor sees it -/

/-- A byte with the coprocessor stores still pending for it: each may or may not be seen (70 R464; log 20). -/
def pendingByte (draws addr : Nat) : Nat → List CopStore → Byte → Byte
  | _, [], v => v
  | n, c :: rest, v =>
    pendingByte draws addr (n + 1) rest
      (if c.addr = addr then (if Config.coprocSeen draws addr n then c.byte else v) else v)

/-- The byte a read of a physical address gives (20_memory R95, 70 R464). -/
def State.peek (s : State) (a : Nat) : Byte := pendingByte s.draws a 0 s.coproc (Memory.get s.mem a)

/-- The values a code byte has held since the last control transfer, latest first. -/
def staleBytes (a : Nat) : List Host.Cell → List Byte
  | [] => []
  | (k, v) :: rest => if k = a then v :: staleBytes a rest else staleBytes a rest

/-- The byte an instruction fetch gives: what memory holds, or, when the byte was replaced since the last control transfer,
any value it has held (20_memory R98; log 21). -/
def State.peekCode (s : State) (a : Nat) : Byte :=
  match staleBytes a s.stale with
  | [] => s.peek a
  | v :: vs => (s.peek a :: v :: vs).getD (Config.staleChoice s.draws a % (vs.length + 2)) (s.peek a)

/-! ## Stores -/

/-- Mark the pending coprocessor stores to a byte the processor has just written. -/
def markRaced (a : Nat) (cs : List CopStore) : List CopStore :=
  cs.map (fun c => if c.addr = a then { c with raced := true } else c)

/-- The processor stores one byte. -/
def State.poke (s : State) (a : Nat) (v : Byte) : State :=
  { s with
    mem := Memory.set s.mem a v
    stale := (a, Memory.get s.mem a) :: s.stale
    coproc := markRaced a s.coproc }

/-- The processor stores bytes, each at its address. -/
def State.pokes (s : State) : List Nat → List Byte → State
  | a :: as, v :: vs => (s.poke a v).pokes as vs
  | _, _ => s

/-- A pending store to `addr` is among those a read of it sees: it, or one issued after it (`pendingByte`). -/
def anySeen (draws addr : Nat) : Nat → List CopStore → Bool
  | _, [] => false
  | n, c :: rest => (decide (c.addr = addr) && Config.coprocSeen draws addr n) || anySeen draws addr (n + 1) rest

/-- The pending stores told apart by what the read of an indivisible exchange of the bytes at `as` saw, in the order issued:
those that came before it, and those still pending, which are as they were before it. -/
def splitSeen (draws : Nat) (as : List Nat) : Nat → List CopStore → List CopStore × List CopStore
  | _, [] => ([], [])
  | n, c :: rest =>
    let (before, after) := splitSeen draws as (n + 1) rest
    if c.addr ∈ as ∧ anySeen draws c.addr n (c :: rest) = true then (c :: before, after) else (before, c :: after)

/-- The bytes of an exchange stored: XCHG with memory is indivisible for the coprocessor too (20_memory R88, 92 D22). A store its
read saw came before it, has been overwritten and is pending no more; of one it did not see XCHG's own store makes no race: it
comes after XCHG, or before a store that had raced it already (R95; log 20). The bytes overwritten may still be fetched (R98). -/
def State.exchangeBytes (s : State) (as : List Nat) (vs : List Byte) : State :=
  let (before, after) := splitSeen s.draws as 0 s.coproc
  let t := s.pokes as vs
  { t with coproc := after, stale := before.map (fun c => (c.addr, c.byte)) ++ t.stale }

/-- One coprocessor store reaches memory; against a processor store made meanwhile either may win (20_memory R95; log 20). One
that loses stood in memory before that store, so its byte may still be fetched (R98; log 21). -/
def State.commitStore (s : State) (c : CopStore) : State :=
  if c.raced && !Config.coprocWins s.draws c.addr then { s with stale := (c.addr, c.byte) :: s.stale }
  else { s with mem := Memory.set s.mem c.addr c.byte, stale := (c.addr, Memory.get s.mem c.addr) :: s.stale }

/-- Every pending coprocessor store reaches memory, in the order issued: what WAIT orders (20_memory R96). -/
def State.commitStores (s : State) : State :=
  { s.coproc.foldl State.commitStore s with coproc := [] }

/-- A sample's stores join the pending ones; a physical address has 32 bits (R80). -/
def issueStores (cs : List CopStore) (stores : List Host.Cell) : List CopStore :=
  cs ++ stores.map (fun c => { addr := c.1 % 2 ^ 32, byte := c.2, raced := false })

end Sys2Proof.Machine
end

