-- ==== Sys2Proof/Machine/Ops.lean ====
section
/-! DEFINITION. The shared operations: mode and privilege (10_state R43–R44), sizes (30_encoding R124, 20_memory R89), raising
an exception (60_exceptions R400), descriptor lookup and page walk (20_memory R78–R79), checking and making a memory access
(R74–R86), the stack (R89–R93), loading a segment register (40_stack R155), finishing an instruction (10_state R27). -/

namespace Sys2Proof.Machine

/-- What an operation gives: a value, or a stop. -/
abbrev Res (α : Type) := Except Stop α

/-! ## Mode and privilege -/

/-- The operating modes (10_state R44). -/
inductive Mode where
  | real
  | prot
  | v86
  deriving DecidableEq, Repr

/-- The mode: a function of CR0.PE and EFLAGS.VM (R44). -/
def State.mode (s : State) : Mode :=
  if s.cr0.getLsbD 0 then (if flag s.eflags .vm then .v86 else .prot) else .real

/-- A segment register. -/
def SegRegs.get (g : SegRegs) : SReg → SegReg
  | .es => g.es
  | .cs => g.cs
  | .ss => g.ss
  | .ds => g.ds
  | .fs => g.fs
  | .gs => g.gs

/-- The segment registers with one written. -/
def SegRegs.set (g : SegRegs) : SReg → SegReg → SegRegs
  | .es, v => { g with es := v }
  | .cs, v => { g with cs := v }
  | .ss, v => { g with ss := v }
  | .ds, v => { g with ds := v }
  | .fs, v => { g with fs := v }
  | .gs, v => { g with gs := v }

/-- A segment register of the state. -/
abbrev State.seg (s : State) (r : SReg) : SegReg := s.segs.get r

/-- The state with a segment register written. -/
def State.setSeg (s : State) (r : SReg) (v : SegReg) : State := { s with segs := s.segs.set r v }

/-- The RPL field of a selector, bits 1:0 (10_state R40). -/
def rpl (sel : Word) : BitVec 2 := sel.extractLsb' 0 2

/-- A null selector: index and table indicator zero (R40). -/
def nullSel (sel : Word) : Bool := sel.extractLsb' 2 14 == 0

/-- The current privilege level (R43). -/
def State.cpl (s : State) : BitVec 2 :=
  match s.mode with
  | .real => 0
  | .v86 => 3
  | .prot => rpl s.segs.cs.selector

/-- IOPL of the state (R38). -/
def State.iopl (s : State) : BitVec 2 := Machine.iopl s.eflags

/-- The less privileged of two levels, the numerically greater (60_exceptions R431). -/
def outerLevel (a b : BitVec 2) : BitVec 2 := if a < b then b else a

/-- The instruction is sensitive to IOPL here: V86 mode with IOPL below 3 (60_exceptions R428). -/
def State.v86Trapped (s : State) : Bool := s.mode == .v86 && s.iopl != 3

/-! ## Sizes -/

/-- A size attribute bit as a size. -/
def sizeOf (big : Bool) : OSize := if big then .s32 else .s16

/-- `DEFAULT_SIZE` of the running code segment (30_encoding R124). -/
def State.defaultSize (s : State) : OSize :=
  match s.mode with
  | .prot => sizeOf s.segs.cs.cache.big
  | _ => .s16

/-- `OS` of the instruction being executed (R124). -/
def State.os (s : State) : OSize := if s.cur.os then s.defaultSize.toggle else s.defaultSize

/-- `AS` of the instruction being executed (R124). -/
def State.as (s : State) : OSize := if s.cur.as then s.defaultSize.toggle else s.defaultSize

/-- `SA`, the stack address size (20_memory R89): the address size by the source, the size attribute of SS by general
knowledge; where the two differ the parameter `STACK_SIZE_RULE` decides (log 2). -/
def State.stackSize (s : State) : OSize :=
  let b := sizeOf s.segs.ss.cache.big
  if s.as = b then b
  else match Config.stackSizeRule with
    | .addressSize => s.as
    | .ssBBit => b

/-! ## Raising an exception (60_exceptions R400) -/

/-- The vector of an exception (R401). -/
def Exc.vector : Exc → Nat
  | .ud => 6
  | .nm => 7
  | .np => 11
  | .ss => 12
  | .gp => 13
  | .pf => 14
  | .mf => 16

/-- A selector as an error code: its RPL bits cleared (R403). -/
def selCode (sel : Word) : Word := sel &&& 0xFFFC

/-- `raise #XX`, an exception without an error code (R401). -/
def raiseBare {α : Type} (x : Exc) : Res α := .error (.exc x none none)

/-- `raise #XX(code)` (R400). -/
def raise {α : Type} (x : Exc) (code : Word) : Res α := .error (.exc x (some code) none)

/-- `raise #PF(code)`, which records the linear address in CR2 (R404). -/
def raisePf {α : Type} (code : Word) (linear : Dword) : Res α := .error (.exc .pf (some code) (some linear))

/-- Give the situation no meaning (00_scope R8). -/
def refuse {α : Type} (r : Refusal) : Res α := .error (.refuse r)

/-- Stop with `e` where the condition holds. -/
def stopIf (c : Bool) (e : Res Unit) : Res Unit := if c then e else .ok ()

/-- The error code as reported: none in real mode (R405). -/
def State.reportedCode (s : State) (code : Option Word) : Option Word :=
  match s.mode with
  | .real => none
  | _ => code

/-- The state an exception leaves: the state before the instruction, CR2 written by a page fault (R400, R404). -/
def State.afterFault (s : State) (cr2 : Option Dword) : State :=
  { s with cr2 := cr2.getD s.cr2, cur := Cur.idle }

/-- TAKING AN EXCEPTION, and every other stop, from the state `s` before the instruction (R400, R405, R407): whatever the
instruction had computed is dropped, so that exceptions are precise (92 D33). -/
def stopped (s : State) : Stop → Host.Outcome State Fault Refusal
  | .exc x code cr2 => .fault (.raised x (s.reportedCode code) (s.afterFault cr2))
  | .shutdown => .fault .shutdown
  | .refuse r => .refused r

/-- The outcome of an instruction begun in state `s` (00_scope R8). -/
def conclude (s : State) : Res State → Host.Outcome State Fault Refusal
  | .ok t => .next t
  | .error e => stopped s e

/-! ## Finishing an instruction -/

/-- `pc <- next`: the instruction completes; the interrupt inhibit ends with it (10_state R27, R52). -/
def State.advance (s : State) : State :=
  { s with eip := s.cur.next, inhibit := false, cur := Cur.idle }

/-- `pc <- target`: a control transfer; nothing prefetched before it is used after it (10_state R27, 20_memory R98). -/
def State.jump (s : State) (target : Dword) : State :=
  { s with eip := target, inhibit := false, stale := [], cur := Cur.idle }

/-- The step ends with EIP still at the instruction: `Hold`, or a repetition that goes on (45_string R316, 47 R360). -/
def State.stay (s : State) : State := { s with cur := Cur.idle }

/-! ## Descriptors (20_memory R79) -/

/-- `Desc(selector)`; `none` is `OutOfTable` (R79; log 13). DESIGN CHOICE (log 13): which selectors are outside their table is
said by the oracle alone, GDTR and LDTR (10_state R47, R49) not being looked at. -/
def State.desc (s : State) (sel : Word) : Option DescAnswer :=
  (s.descs.find? (fun e => e.key == sel.extractLsb' 2 14)).map DescEntry.answer

/-- The descriptor of a selector: out of its table is `#GP(sel)`, a fault on its page is `#PF` (40_stack R155 rows 3, 7).
DESIGN CHOICE (log 13): an entry of `Desc` that answers a page fault does so whether or not CR0.PG is set. -/
def State.descOrGp (s : State) (sel : Word) : Res Descriptor :=
  match s.desc sel with
  | none => raise .gp (selCode sel)
  | some (.pageFault code lin) => raisePf code lin
  | some (.found d) => .ok d

/-- A data segment. -/
def Descriptor.isData (d : Descriptor) : Bool :=
  match d.kind with
  | .data _ _ => true
  | _ => false

/-- A writable data segment. -/
def Descriptor.isWritable (d : Descriptor) : Bool :=
  match d.kind with
  | .data w _ => w
  | _ => false

/-- A code segment. -/
def Descriptor.isCode (d : Descriptor) : Bool :=
  match d.kind with
  | .code _ _ => true
  | _ => false

/-- A conforming code segment. -/
def Descriptor.isConforming (d : Descriptor) : Bool :=
  match d.kind with
  | .code _ c => c
  | _ => false

/-- A code segment that cannot be read. -/
def Descriptor.isExecuteOnly (d : Descriptor) : Bool :=
  match d.kind with
  | .code r _ => !r
  | _ => false

/-- A data segment or a readable code segment. -/
def Descriptor.isReadable (d : Descriptor) : Bool :=
  match d.kind with
  | .data _ _ => true
  | .code r _ => r
  | .system => false

/-! ## Checking an access (20_memory R74–R78, 60_exceptions R415) -/

/-- What an access does to its bytes (R74, R415). -/
inductive Access where
  | read
  | write
  | rmw
  deriving DecidableEq, Repr

/-- The access reads. -/
def Access.reads : Access → Bool
  | .read | .rmw => true
  | .write => false

/-- The access writes. -/
def Access.writes : Access → Bool
  | .write | .rmw => true
  | .read => false

/-- `InLimit(cache, off, n)`: the n bytes from `off` lie inside the segment (R76); expand-down is open (log 17). -/
def Descriptor.inLimit (d : Descriptor) (off n : Nat) : Bool :=
  match d.kind with
  | .data _ true => Config.inLimitExpandDown d.limit off n
  | _ => decide (off + n ≤ d.limit.toNat + 1)

/-- The exception of a limit violation: the stack fault for SS, general protection otherwise (R75–R77). -/
def limitExc : SReg → Exc
  | .ss => .ss
  | _ => .gp

/-- DS, ES, FS, GS (R76). -/
def isDataReg : SReg → Bool
  | .ds | .es | .fs | .gs => true
  | .cs | .ss => false

/-- `SegCheck(seg, off, n, kind)` (R74–R77, in the order of R415). DESIGN CHOICE (log 48): in protected mode the limit alone
bounds an item of the stack at SA = 16 too, so one that starts at offset FFFFh reaches 10000h where the limit of SS allows it. -/
def State.segCheck (s : State) (seg : SReg) (off n : Nat) (k : Access) : Res Unit :=
  let r := s.seg seg
  match s.mode with
  | .prot =>
    if isDataReg seg && (nullSel r.selector || !r.valid) then raise .gp 0
    else if !r.cache.present && seg == .ss then raise .ss (selCode r.selector)
    else if !r.cache.present && isDataReg seg then raise .np (selCode r.selector)
    else if k.reads && r.cache.isExecuteOnly then raise .gp 0
    else if k.writes && !r.cache.isWritable then raise .gp 0
    else if !r.cache.inLimit off n then raise (limitExc seg) 0
    else .ok ()
  | _ => if 0x10000 < off + n then raise (limitExc seg) 0 else .ok ()

/-- Paging is in force: not in real mode, and CR0.PG is set (R78, R75; 10_state R45). -/
def State.paging (s : State) : Bool := s.mode != .real && s.cr0.getLsbD 31

/-- An entry of the paging oracle speaks of this access. -/
def PageEntry.covers (e : PageEntry) (lin : Dword) (write : Bool) (cpl : BitVec 2) : Bool :=
  decide (e.first ≤ lin) && decide (lin ≤ e.last) && (if write then e.writes else e.reads)
    && (match e.level with
        | none => true
        | some l => l == cpl)

/-- `PageWalk(linear, kind, CPL)` (R78; log 14): the identity when paging is off or no entry speaks of the access. -/
def State.pageWalk (s : State) (lin : Dword) (write : Bool) : Res Nat :=
  if s.paging then
    match s.pages.find? (fun e => e.covers lin write s.cpl) with
    | none => .ok lin.toNat
    | some e =>
      match e.answer with
      | .mapped phys => .ok (phys + (lin - e.first)).toNat
      | .fault code => raisePf code lin
  else .ok lin.toNat

/-- `linear = trunc_32(base(seg) + off)` (20_memory R71). -/
def State.linear (s : State) (seg : SReg) (off : Nat) : Dword := (s.seg seg).cache.base + BitVec.ofNat 32 off

/-- The physical addresses of `n` bytes, walked lowest first (R78, R84). -/
def State.walk (s : State) (seg : SReg) (off : Nat) (write : Bool) : Nat → Res (List Nat)
  | 0 => .ok []
  | n + 1 => do
    let p ← s.pageWalk (s.linear seg off) write
    let ps ← s.walk seg (off + 1) write n
    return p :: ps

/-- Something the model can access stands at the physical address (R88, R100; 93 F11). -/
def State.populatedAt (s : State) (a : Nat) : Res Unit :=
  match s.populated.find? (fun r => decide (r.first ≤ a) && decide (a < r.first + r.size)) with
  | none => refuse .unpopulated
  | some r =>
    match r.kind with
    | .ram => .ok ()
    | .device => refuse .deviceMemory

/-- `populatedAt` of every address. -/
def State.allPopulated (s : State) : List Nat → Res Unit
  | [] => .ok ()
  | a :: rest => do
    s.populatedAt a
    s.allPopulated rest

/-- All checks of a read or a write of n bytes, and their physical addresses (R84, R85). DESIGN CHOICE (log 45): the refusal of
an unpopulated or device address comes after the faults of its own access and before the checks of the next access. -/
def State.access (s : State) (seg : SReg) (off n : Nat) (k : Access) : Res (List Nat) := do
  s.segCheck seg off n k
  let ps ← s.walk seg off k.writes n
  s.allPopulated ps
  return ps

/-- All checks of a read-modify-write of n bytes: where it writes, where it reads (R86, R415; log 15). Its refusals come after
both walks (log 45). -/
def State.accessRmw (s : State) (seg : SReg) (off n : Nat) : Res (List Nat × List Nat) := do
  s.segCheck seg off n .rmw
  let ws ← s.walk seg off true n
  let rs ← s.walk seg off false n
  s.allPopulated ws
  s.allPopulated rs
  return (ws, rs)

/-! ## Access (20_memory R84–R85) -/

/-- The value of bytes read, little-endian (R81). -/
def State.valueAt (s : State) (w : Width) (ps : List Nat) : BitVec w.bits :=
  BitVec.ofNat w.bits (leNat (ps.map s.peek))

/-- The bytes of a value, little-endian (R81). -/
def valueBytes (w : Width) (v : BitVec w.bits) : List Byte := leBytes w.bytes v.toNat

/-- `MemRead(seg, off, n)` (R84). -/
def State.memRead (s : State) (seg : SReg) (off : Nat) (w : Width) : Res (BitVec w.bits) := do
  let ps ← s.access seg off w.bytes .read
  return s.valueAt w ps

/-- `MemWrite` of bytes (R85). -/
def State.memWriteBytes (s : State) (seg : SReg) (off : Nat) (bs : List Byte) : Res State := do
  let ps ← s.access seg off bs.length .write
  return s.pokes ps bs

/-- `MemWrite(seg, off, n, v)` (R85). -/
def State.memWrite (s : State) (seg : SReg) (off : Nat) (w : Width) (v : BitVec w.bits) : Res State :=
  s.memWriteBytes seg off (valueBytes w v)

/-! ## The stack (20_memory R89–R93) -/

/-- ESP, or SP zero-extended, moved by `d` bytes at the stack address size (R89–R92). -/
def State.spPlus (s : State) (d : Dword) : Dword :=
  match s.stackSize with
  | .s32 => s.regs.esp + d
  | .s16 => ((s.regs.esp + d).setWidth 16).setWidth 32

/-- ESP with its low 16 bits replaced (10_state R24). -/
def lowWord (old v : Dword) : Dword := (old &&& 0xFFFF0000) ||| (v &&& 0xFFFF)

/-- The stack pointer written at a stack address size: ESP, or SP only (R90, R91). -/
def State.setSp (s : State) (sa : OSize) (t : Dword) : State :=
  { s with regs := { s.regs with esp := match sa with
                                        | .s32 => t
                                        | .s16 => lowWord s.regs.esp t } }

/-- A real-mode push whose item reaches past offset FFFFh: Shutdown (40_stack R170; 60_exceptions R408; 90 C41). R170 speaks
of a 16-bit stack pointer only; that it is Shutdown with a 32-bit one too, where 20_memory R75 and R93 alone would give
vector 12, is the model's choice (DEDUCED from C41; log 43). -/
def State.lowStack (s : State) (t : Dword) (k : Nat) : Bool := s.mode == .real && decide (0x10000 < t.toNat + k)

/-- `Push(v, k)` (R90), with the real-mode low stack of 40_stack R170: in real mode a push raises no stack fault (log 43). -/
def State.push (s : State) (w : Width) (v : BitVec w.bits) : Res State := do
  let t := s.spPlus (- BitVec.ofNat 32 w.bytes)
  stopIf (s.lowStack t w.bytes) (.error .shutdown)
  let s' ← s.memWrite .ss t.toNat w v
  return s'.setSp s.stackSize t

/-- The item of width w at SS:sp() + d, wrapped by the stack address size (R89, 42_ret R232). -/
def State.stackRead (s : State) (d : Nat) (w : Width) : Res (BitVec w.bits) :=
  s.memRead .ss (s.spPlus (BitVec.ofNat 32 d)).toNat w

/-- The stack pointer increased by b (42_ret R232 `Release`). -/
def State.release (s : State) (b : Nat) : State := s.setSp s.stackSize (s.spPlus (BitVec.ofNat 32 b))

/-- `Pop(k)` (R91). -/
def State.pop (s : State) (w : Width) : Res (BitVec w.bits × State) := do
  let v ← s.stackRead 0 w
  return (v, s.release w.bytes)

/-! ## Loading a segment register (40_stack R155) -/

/-- A segment register holding a descriptor. -/
def SegReg.loaded (sel : Word) (d : Descriptor) : SegReg := { selector := sel, cache := d, valid := true }

/-- A segment register loaded in real or V86 mode: the base is the selector times 16, the rest of the cache is kept (R155). -/
def SegReg.loadedReal (old : SegReg) (sel : Word) : SegReg :=
  { old with selector := sel, cache := { old.cache with base := sel.setWidth 32 <<< 4 } }

/-- SS loaded in protected mode (R155 rows 1, 3, 4, 6–8). Row 4's test of RPL needs no descriptor, so it comes before the
descriptor is read and may page-fault (row 7; log 27); a selector outside its table raises the same `#GP(sel)` as row 4. -/
def State.loadSsProt (s : State) (sel : Word) : Res SegReg := do
  stopIf (nullSel sel) (raise .gp 0)
  stopIf (rpl sel != s.cpl) (raise .gp (selCode sel))
  let d ← s.descOrGp sel
  stopIf (!d.isWritable || d.dpl != s.cpl) (raise .gp (selCode sel))
  stopIf (!d.present) (raise .ss (selCode sel))
  return SegReg.loaded sel d

/-- DS, ES, FS or GS loaded in protected mode with a selector that is not null (R155 rows 3, 5–8). -/
def State.loadDataFound (s : State) (sel : Word) : Res SegReg := do
  let d ← s.descOrGp sel
  stopIf (!d.isReadable || (!d.isConforming && decide (d.dpl < outerLevel s.cpl (rpl sel)))) (raise .gp (selCode sel))
  stopIf (!d.present) (raise .np (selCode sel))
  return SegReg.loaded sel d

/-- DS, ES, FS or GS loaded in protected mode; a null selector is stored and marks the register invalid (R155 row 2). -/
def State.loadDataProt (s : State) (r : SReg) (sel : Word) : Res SegReg :=
  if nullSel sel then .ok { s.seg r with selector := sel, valid := false } else s.loadDataFound sel

/-- `LoadSeg(sreg, sel)`: what the register then holds (R155). -/
def State.loadSeg (s : State) (r : SReg) (sel : Word) : Res SegReg :=
  match s.mode with
  | .prot => if r = .ss then s.loadSsProt sel else s.loadDataProt r sel
  | _ => .ok ((s.seg r).loadedReal sel)

end Sys2Proof.Machine
end

