-- ==== Sys2Proof/Machine/Operands.lean ====
section
/-! DEFINITION. Operands: general registers by number and width (10_state R20–R24), effective addresses (30_encoding
R114–R116, 20_memory R72–R73), r/m operands, immediates (30_encoding R121). -/

namespace Sys2Proof.Machine

/-! ## General registers -/

/-- A 32-bit general register (R23). -/
def Regs.get (g : Regs) : RegNum → Dword
  | .n0 => g.eax
  | .n1 => g.ecx
  | .n2 => g.edx
  | .n3 => g.ebx
  | .n4 => g.esp
  | .n5 => g.ebp
  | .n6 => g.esi
  | .n7 => g.edi

/-- The general registers with one 32-bit register written. -/
def Regs.set (g : Regs) : RegNum → Dword → Regs
  | .n0, v => { g with eax := v }
  | .n1, v => { g with ecx := v }
  | .n2, v => { g with edx := v }
  | .n3, v => { g with ebx := v }
  | .n4, v => { g with esp := v }
  | .n5, v => { g with ebp := v }
  | .n6, v => { g with esi := v }
  | .n7, v => { g with edi := v }

/-- The 32-bit register that holds a byte register (R22–R23): AL, CL, DL, BL, AH, CH, DH, BH. -/
def byteHome : RegNum → RegNum
  | .n0 | .n4 => .n0
  | .n1 | .n5 => .n1
  | .n2 | .n6 => .n2
  | .n3 | .n7 => .n3

/-- The byte register is bits 15:8 of its home (R22). -/
def byteHigh : RegNum → Bool
  | .n4 | .n5 | .n6 | .n7 => true
  | _ => false

/-- A byte of a 32-bit value: bits 7:0 or bits 15:8. -/
def getByte (v : Dword) (high : Bool) : Byte := if high then v.extractLsb' 8 8 else v.extractLsb' 0 8

/-- A 32-bit value with bits 7:0 or bits 15:8 replaced (R24). -/
def putByte (v : Dword) (high : Bool) (b : Byte) : Dword :=
  if high then (v &&& 0xFFFF00FF) ||| (b.setWidth 32 <<< 8) else (v &&& 0xFFFFFF00) ||| b.setWidth 32

/-- `x[i]`: read general register `i` at a width (00_scope R7; 10_state R21–R24). -/
def Regs.read (g : Regs) (w : Width) (i : RegNum) : BitVec w.bits :=
  match w with
  | .byte => getByte (g.get (byteHome i)) (byteHigh i)
  | .word => (g.get i).extractLsb' 0 16
  | .dword => g.get i

/-- `x[i] <- v`: a narrow write keeps the other bits (R24). -/
def Regs.write (g : Regs) (w : Width) (i : RegNum) (v : BitVec w.bits) : Regs :=
  match w, v with
  | .byte, v => g.set (byteHome i) (putByte (g.get (byteHome i)) (byteHigh i) v)
  | .word, v => g.set i (lowWord (g.get i) (BitVec.setWidth 32 v))
  | .dword, v => g.set i v

/-- `x[i]` of the state. -/
abbrev State.reg (s : State) (w : Width) (i : RegNum) : BitVec w.bits := s.regs.read w i

/-- The state with `x[i] <- v`. -/
def State.setReg (s : State) (w : Width) (i : RegNum) (v : BitVec w.bits) : State :=
  { s with regs := s.regs.write w i v }

/-- The state with EFLAGS written. -/
def State.setEflags (s : State) (f : Dword) : State := { s with eflags := f }

/-- The state with the six status flags written. -/
def State.withStatus (s : State) (t : Status) : State := s.setEflags (setStatus s.eflags t)

/-- The accumulator AL, AX or EAX is register number 0; CL is number 1 (10_state R25). -/
abbrev accNum : RegNum := .n0

/-! ## Effective addresses -/

/-- A 16-bit register by number. -/
def State.r16 (s : State) (i : RegNum) : BitVec 16 := (s.regs.get i).extractLsb' 0 16

/-- The base of a 16-bit address (30_encoding R116). -/
def State.base16 (s : State) : Base16 → BitVec 16
  | .bxSi => s.r16 .n3 + s.r16 .n6
  | .bxDi => s.r16 .n3 + s.r16 .n7
  | .bpSi => s.r16 .n5 + s.r16 .n6
  | .bpDi => s.r16 .n5 + s.r16 .n7
  | .si => s.r16 .n6
  | .di => s.r16 .n7
  | .bp => s.r16 .n5
  | .bx => s.r16 .n3

/-- A displacement at 16 bits (R116). -/
def Disp16.value : Disp16 → BitVec 16
  | .none => 0
  | .d8 v => v.signExtend 16
  | .d16 v => v

/-- A displacement at 32 bits (R114). -/
def Disp32.value : Disp32 → Dword
  | .none => 0
  | .d8 v => v.signExtend 32
  | .d32 v => v

/-- The shift count of a scale (R115). -/
def Scale.shift : Scale → Nat
  | .x1 => 0
  | .x2 => 1
  | .x4 => 2
  | .x8 => 3

/-- The scaled index; number 4 is no index (R115). -/
def State.indexPart (s : State) (ss : Scale) (i : RegNum) : Dword :=
  if i = .n4 then 0 else s.regs.get i <<< Scale.shift ss

/-- The effective address, truncated to its address size (20_memory R72). -/
def State.ea (s : State) : Mem → Dword
  | .base16 b d => (s.base16 b + Disp16.value d).setWidth 32
  | .abs16 d => d.setWidth 32
  | .base32 b d => s.regs.get b + Disp32.value d
  | .abs32 d => d
  | .sib ss i b d => s.regs.get b + s.indexPart ss i + Disp32.value d
  | .sibAbs ss i d => s.indexPart ss i + d

/-- The default segment: SS when the base is (E)BP or ESP, else DS (20_memory R73). -/
def defaultSeg : Mem → SReg
  | .base16 b _ =>
    match b with
    | .bpSi | .bpDi | .bp => .ss
    | _ => .ds
  | .base32 b _ => if b = .n5 ∨ b = .n4 then .ss else .ds
  | .sib _ _ b _ => if b = .n5 ∨ b = .n4 then .ss else .ds
  | .abs16 _ | .abs32 _ | .sibAbs _ _ _ => .ds

/-- The segment of a memory operand, after an override (R73). -/
def State.memSeg (s : State) (m : Mem) : SReg := s.cur.seg.getD (defaultSeg m)

/-- The operand is addressed through ESP (40_stack R151). -/
def espBased : Mem → Bool
  | .sib _ _ b _ => b == .n4
  | .base32 b _ => b == .n4
  | _ => false

/-! ## r/m operands -/

/-- Read an r/m operand (40_stack R150, 44_arith_logic R280). -/
def State.rmRead (s : State) (w : Width) : RM → Res (BitVec w.bits)
  | .reg r => .ok (s.reg w r)
  | .mem m => s.memRead (s.memSeg m) (s.ea m).toNat w

/-- Write an r/m operand. -/
def State.rmWrite (s : State) (w : Width) (rm : RM) (v : BitVec w.bits) : Res State :=
  match rm with
  | .reg r => .ok (s.setReg w r v)
  | .mem m => s.memWrite (s.memSeg m) (s.ea m).toNat w v

/-- Read an r/m operand, compute from it a new value and a state with everything else the instruction writes, and write it
back; a memory operand is checked for writing before it is read (20_memory R86). -/
def State.rmModify (s : State) (w : Width) (rm : RM) (f : BitVec w.bits → BitVec w.bits × State) : Res State :=
  match rm with
  | .reg r =>
    let (v, t) := f (s.reg w r)
    .ok (t.setReg w r v)
  | .mem m => do
    let (ws, rs) ← s.accessRmw (s.memSeg m) (s.ea m).toNat w.bytes
    let (v, t) := f (s.valueAt w rs)
    return t.pokes ws (valueBytes w v)

/-! ## Immediates (30_encoding R121) -/

/-- An immediate at the operand's width, sign-extended where it is shorter. -/
def Imm.value (w : Width) : Imm → BitVec w.bits
  | .i8 v => v.signExtend w.bits
  | .i16 v => v.signExtend w.bits
  | .i32 v => v.signExtend w.bits

end Sys2Proof.Machine
end

