-- ==== Sys2Proof/Machine/ArithLogic.lean ====
section
/-! DEFINITION. SBB, TEST, SUB, XOR (44_arith_logic R280–R305). -/

namespace Sys2Proof.Machine

/-! ## Subtraction -/

/-- The borrow an instruction takes in: CF for SBB, none for SUB (R283, R293). -/
def borrowIn (withCf : Bool) (s : State) : Bool := withCf && flag s.eflags .cf

/-- `r/m <- r/m − b − c` with its flags (R283, R285, R293, R295). -/
def subRm (withCf : Bool) (n : Width) (rm : RM) (b : BitVec n.bits) (s : State) : Res State := do
  let c := borrowIn withCf s
  let t ← s.rmModify n rm fun a => (subResult a b c, s.withStatus (subFlags a b c))
  return t.advance

/-- `reg <- reg − r/m − c` with its flags (R284, R294). -/
def subReg (withCf : Bool) (n : Width) (r : RegNum) (rm : RM) (s : State) : Res State := do
  let b ← s.rmRead n rm
  let c := borrowIn withCf s
  let a := s.reg n r
  return ((s.withStatus (subFlags a b c)).setReg n r (subResult a b c)).advance

/-- SBB r/m, r (18, 19; R283). -/
def execSbbRmR (w : Bool) (rm : RM) (r : RegNum) (s : State) : Host.Outcome State Fault Refusal :=
  conclude s (subRm true (opWidth w s.os) rm (s.reg _ r) s)

/-- SBB r, r/m (1A, 1B; R284). -/
def execSbbRRm (w : Bool) (r : RegNum) (rm : RM) (s : State) : Host.Outcome State Fault Refusal :=
  conclude s (subReg true (opWidth w s.os) r rm s)

/-- SBB r/m, imm (80–83 /3; R285). -/
def execSbbRmImm (_s w : Bool) (rm : RM) (imm : Imm) (s : State) : Host.Outcome State Fault Refusal :=
  conclude s (subRm true (opWidth w s.os) rm (Imm.value _ imm) s)

/-- SBB AL, AX or EAX, imm (1C, 1D; R286). -/
def execSbbAccImm (w : Bool) (imm : Imm) (s : State) : Host.Outcome State Fault Refusal :=
  conclude s (subRm true (opWidth w s.os) (.reg accNum) (Imm.value _ imm) s)

/-- SUB r/m, r (28, 29; R293). -/
def execSubRmR (w : Bool) (rm : RM) (r : RegNum) (s : State) : Host.Outcome State Fault Refusal :=
  conclude s (subRm false (opWidth w s.os) rm (s.reg _ r) s)

/-- SUB r, r/m (2A, 2B; R294). -/
def execSubRRm (w : Bool) (r : RegNum) (rm : RM) (s : State) : Host.Outcome State Fault Refusal :=
  conclude s (subReg false (opWidth w s.os) r rm s)

/-- SUB r/m, imm (80–83 /5; R295). -/
def execSubRmImm (_s w : Bool) (rm : RM) (imm : Imm) (s : State) : Host.Outcome State Fault Refusal :=
  conclude s (subRm false (opWidth w s.os) rm (Imm.value _ imm) s)

/-- SUB AL, AX or EAX, imm (2C, 2D; R296). -/
def execSubAccImm (w : Bool) (imm : Imm) (s : State) : Host.Outcome State Fault Refusal :=
  conclude s (subRm false (opWidth w s.os) (.reg accNum) (Imm.value _ imm) s)

/-! ## XOR -/

/-- `r/m <- r/m XOR b` with its flags (R298, R300, R303). -/
def xorRm (n : Width) (rm : RM) (b : BitVec n.bits) (s : State) : Res State := do
  let t ← s.rmModify n rm fun a => (a ^^^ b, s.withStatus (logicFlags s.draws (a ^^^ b)))
  return t.advance

/-- XOR r/m, r (30, 31; R298). -/
def execXorRmR (w : Bool) (rm : RM) (r : RegNum) (s : State) : Host.Outcome State Fault Refusal :=
  conclude s (xorRm (opWidth w s.os) rm (s.reg _ r) s)

/-- `reg <- reg XOR r/m` with its flags (R299, R303). -/
def xorReg (n : Width) (r : RegNum) (rm : RM) (s : State) : Res State := do
  let b ← s.rmRead n rm
  let a := s.reg n r
  return ((s.withStatus (logicFlags s.draws (a ^^^ b))).setReg n r (a ^^^ b)).advance

/-- XOR r, r/m (32, 33; R299). -/
def execXorRRm (w : Bool) (r : RegNum) (rm : RM) (s : State) : Host.Outcome State Fault Refusal :=
  conclude s (xorReg (opWidth w s.os) r rm s)

/-- XOR r/m, imm (80–83 /6; R300). -/
def execXorRmImm (_s w : Bool) (rm : RM) (imm : Imm) (s : State) : Host.Outcome State Fault Refusal :=
  conclude s (xorRm (opWidth w s.os) rm (Imm.value _ imm) s)

/-- XOR AL, AX or EAX, imm (34, 35; R301). -/
def execXorAccImm (w : Bool) (imm : Imm) (s : State) : Host.Outcome State Fault Refusal :=
  conclude s (xorRm (opWidth w s.os) (.reg accNum) (Imm.value _ imm) s)

/-! ## TEST -/

/-- The flags of `r/m AND b`; neither operand is written (R288, R292). -/
def testRm (n : Width) (rm : RM) (b : BitVec n.bits) (s : State) : Res State := do
  let a ← s.rmRead n rm
  return (s.withStatus (logicFlags s.draws (a &&& b))).advance

/-- TEST r/m, r (84, 85; R288). -/
def execTestRmR (w : Bool) (rm : RM) (r : RegNum) (s : State) : Host.Outcome State Fault Refusal :=
  conclude s (testRm (opWidth w s.os) rm (s.reg _ r) s)

/-- TEST r/m, imm (F6, F7 /0; R289). -/
def execTestRmImm (w : Bool) (rm : RM) (imm : Imm) (s : State) : Host.Outcome State Fault Refusal :=
  conclude s (testRm (opWidth w s.os) rm (Imm.value _ imm) s)

/-- TEST AL, AX or EAX, imm (A8, A9; R290). -/
def execTestAccImm (w : Bool) (imm : Imm) (s : State) : Host.Outcome State Fault Refusal :=
  conclude s (testRm (opWidth w s.os) (.reg accNum) (Imm.value _ imm) s)

end Sys2Proof.Machine
end

