-- ==== Sys2Proof/Machine/FlagControl.lean ====
section
/-! DEFINITION. SAHF, SETcc, STC, STD, STI (43_flag_control R260–R267). -/

namespace Sys2Proof.Machine

/-- EFLAGS after SAHF of a byte: SF, ZF, AF, PF, CF from bits 7, 6, 4, 2, 0 (R260). -/
def sahfFlags (f : Dword) (ah : Byte) : Dword :=
  setFlag (setFlag (setFlag (setFlag (setFlag f .sf (ah.getLsbD 7)) .zf (ah.getLsbD 6)) .af (ah.getLsbD 4)) .pf
    (ah.getLsbD 2)) .cf (ah.getLsbD 0)

/-- SAHF (9E; R260): AH is byte register number 4. -/
def execSahf (s : State) : Host.Outcome State Fault Refusal :=
  conclude s (.ok (s.setEflags (sahfFlags s.eflags (s.reg .byte .n4))).advance)

/-- SETcc: the whole byte operand becomes 01h or 00h (R261). -/
def setCond (c : Cond) (rm : RM) (s : State) : Res State := do
  let t ← s.rmWrite .byte rm (if c.holds s.eflags then 1#8 else 0#8)
  return t.advance

/-- SETO r/m8 (0F 90; R261, R262). -/
def execSeto (rm : RM) (s : State) : Host.Outcome State Fault Refusal := conclude s (setCond .o rm s)

/-- SETNO r/m8 (0F 91; R261, R262). -/
def execSetno (rm : RM) (s : State) : Host.Outcome State Fault Refusal := conclude s (setCond .no rm s)

/-- SETB r/m8 (0F 92; R261, R262). -/
def execSetb (rm : RM) (s : State) : Host.Outcome State Fault Refusal := conclude s (setCond .b rm s)

/-- SETNB r/m8 (0F 93; R261, R262). -/
def execSetnb (rm : RM) (s : State) : Host.Outcome State Fault Refusal := conclude s (setCond .nb rm s)

/-- SETE r/m8 (0F 94; R261, R262). -/
def execSete (rm : RM) (s : State) : Host.Outcome State Fault Refusal := conclude s (setCond .e rm s)

/-- SETNE r/m8 (0F 95; R261, R262). -/
def execSetne (rm : RM) (s : State) : Host.Outcome State Fault Refusal := conclude s (setCond .ne rm s)

/-- SETBE r/m8 (0F 96; R261, R262). -/
def execSetbe (rm : RM) (s : State) : Host.Outcome State Fault Refusal := conclude s (setCond .be rm s)

/-- SETNBE r/m8 (0F 97; R261, R262). -/
def execSetnbe (rm : RM) (s : State) : Host.Outcome State Fault Refusal := conclude s (setCond .nbe rm s)

/-- SETS r/m8 (0F 98; R261, R262). -/
def execSets (rm : RM) (s : State) : Host.Outcome State Fault Refusal := conclude s (setCond .s rm s)

/-- SETNS r/m8 (0F 99; R261, R262). -/
def execSetns (rm : RM) (s : State) : Host.Outcome State Fault Refusal := conclude s (setCond .ns rm s)

/-- SETP r/m8 (0F 9A; R261, R262). -/
def execSetp (rm : RM) (s : State) : Host.Outcome State Fault Refusal := conclude s (setCond .p rm s)

/-- SETNP r/m8 (0F 9B; R261, R262). -/
def execSetnp (rm : RM) (s : State) : Host.Outcome State Fault Refusal := conclude s (setCond .np rm s)

/-- SETL r/m8 (0F 9C; R261, R262). -/
def execSetl (rm : RM) (s : State) : Host.Outcome State Fault Refusal := conclude s (setCond .l rm s)

/-- SETNL r/m8 (0F 9D; R261, R262). -/
def execSetnl (rm : RM) (s : State) : Host.Outcome State Fault Refusal := conclude s (setCond .nl rm s)

/-- SETLE r/m8 (0F 9E; R261, R262). -/
def execSetle (rm : RM) (s : State) : Host.Outcome State Fault Refusal := conclude s (setCond .le rm s)

/-- SETNLE r/m8 (0F 9F; R261, R262). -/
def execSetnle (rm : RM) (s : State) : Host.Outcome State Fault Refusal := conclude s (setCond .nle rm s)

/-- STC (F9; R263). -/
def execStc (s : State) : Host.Outcome State Fault Refusal :=
  conclude s (.ok (s.setEflags (setFlag s.eflags .cf true)).advance)

/-- STD (FD; R264). -/
def execStd (s : State) : Host.Outcome State Fault Refusal :=
  conclude s (.ok (s.setEflags (setFlag s.eflags .df true)).advance)

/-- STI may run: real mode, or CPL at most IOPL (R265). -/
def State.mayEnable (s : State) : Bool := s.mode == .real || decide (s.cpl ≤ s.iopl)

/-- STI (R265–R267): the inhibit is armed only when IF goes from 0 to 1. -/
def enableInterrupts (s : State) : Res State := do
  stopIf (!s.mayEnable) (raise .gp 0)
  return { (s.setEflags (setFlag s.eflags .fi true)).advance with inhibit := !flag s.eflags .fi }

/-- STI (FB; R265). -/
def execSti (s : State) : Host.Outcome State Fault Refusal := conclude s (enableInterrupts s)

end Sys2Proof.Machine
end

