-- ==== Sys2Proof/Machine/Prefixes.lean ====
section
/-! DEFINITION. The prefix bytes (30_encoding R111, R136): what each adds to the instruction being decoded, and which prefixes
an instruction may carry. A prefix moves no register and no EIP; the step goes on to the next item (log 23). -/

namespace Sys2Proof.Machine

/-- The state after one prefix byte: the byte is counted and `f` records what it asks for. -/
def takePrefix (f : Cur → Cur) (s : State) : State := { s with cur := { f s.cur with len := s.cur.len + 1 } }

/-- A segment override; a repeated one of the group has no further effect (R111). -/
def withSeg (r : SReg) (c : Cur) : Cur := { c with seg := some (c.seg.getD r) }

/-- A repeat prefix; a repeated one of the group has no further effect (R111). -/
def withRep (r : Rep) (c : Cur) : Cur := { c with rep := some (c.rep.getD r) }

/-- REP, REPE, REPZ (F3). -/
def execRepPfx (s : State) : Host.Outcome State Fault Refusal := .next (takePrefix (withRep .rep) s)

/-- REPNE, REPNZ (F2). -/
def execRepnePfx (s : State) : Host.Outcome State Fault Refusal := .next (takePrefix (withRep .repne) s)

/-- Operand size (66). -/
def execOpSizePfx (s : State) : Host.Outcome State Fault Refusal := .next (takePrefix (fun c => { c with os := true }) s)

/-- Address size (67). -/
def execAddrSizePfx (s : State) : Host.Outcome State Fault Refusal := .next (takePrefix (fun c => { c with as := true }) s)

/-- CS override (2E). -/
def execCsPfx (s : State) : Host.Outcome State Fault Refusal := .next (takePrefix (withSeg .cs) s)

/-- SS override (36). -/
def execSsPfx (s : State) : Host.Outcome State Fault Refusal := .next (takePrefix (withSeg .ss) s)

/-- DS override (3E). -/
def execDsPfx (s : State) : Host.Outcome State Fault Refusal := .next (takePrefix (withSeg .ds) s)

/-- ES override (26). -/
def execEsPfx (s : State) : Host.Outcome State Fault Refusal := .next (takePrefix (withSeg .es) s)

/-- FS override (64). -/
def execFsPfx (s : State) : Host.Outcome State Fault Refusal := .next (takePrefix (withSeg .fs) s)

/-- GS override (65). -/
def execGsPfx (s : State) : Host.Outcome State Fault Refusal := .next (takePrefix (withSeg .gs) s)

/-- LOCK (F0; R136). -/
def execLockPfx (s : State) : Host.Outcome State Fault Refusal := .next (takePrefix (fun c => { c with lock := true }) s)

/-- The item is a prefix byte (R111). -/
def isPfx : Instr → Bool
  | .repPfx | .repnePfx | .opSizePfx | .addrSizePfx | .csPfx | .ssPfx | .dsPfx | .esPfx | .fsPfx | .gsPfx | .lockPfx => true
  | _ => false

/-- SCAS: both repeat prefixes have an effect on it (45_string R317, R318). -/
def isScas : Instr → Bool
  | .scasb | .scasw | .scasd => true
  | _ => false

/-- STOS: F3h alone has an effect on it (R317, R318). -/
def isStos : Instr → Bool
  | .stosb | .stosw | .stosd => true
  | _ => false

/-- The r/m operand lies in memory. -/
def rmIsMem : RM → Bool
  | .mem _ => true
  | .reg _ => false

/-- The instructions R136 lists for LOCK: SBB, SUB, XOR with a memory destination, XCHG with a memory operand. -/
def lockable : Instr → Bool
  | .sbbRmR _ rm _ | .subRmR _ rm _ | .xorRmR _ rm _ | .xchgRmR _ rm _ => rmIsMem rm
  | .sbbRmImm _ _ rm _ | .subRmImm _ _ rm _ | .xorRmImm _ _ rm _ => rmIsMem rm
  | _ => false

/-- The repeat prefix has a defined effect on the instruction (R111, R317, R318). -/
def repFits (i : Instr) : Option Rep → Bool
  | none => true
  | some .rep => isScas i || isStos i
  | some .repne => isScas i

/-- Whether an instruction may carry the prefixes before it: a LOCK is refused, before an instruction of R136's list and
before any other (R136, 92 D22, 93 F3; log 6); so is a repeat prefix without a defined effect (R111; 93 F2). -/
def prefixesFit (c : Cur) (i : Instr) : Res Unit :=
  if c.lock then refuse (.lockPrefix (lockable i))
  else if !repFits i c.rep then refuse .pfxUndefined
  else .ok ()

end Sys2Proof.Machine
end

