-- ==== Sys2Proof/Machine/Ret.lean ====
section
/-! DEFINITION. RET, near and far (42_ret R230–R244). Every read and check of one RET comes before any change (R232). -/

namespace Sys2Proof.Machine

/-- `NewIP(v)`: a 16-bit image is zero-extended (R232). -/
def newIp (w : Width) (v : BitVec w.bits) : Dword := v.setWidth 32

/-- The target lies inside the limit of CS; FFFFh in real and V86 mode (R233, R235). -/
def State.targetInCs (s : State) (t : Dword) : Bool :=
  match s.mode with
  | .prot => s.segs.cs.cache.inLimit t.toNat 1
  | _ => decide (t.toNat ≤ 0xFFFF)

/-- RET near, releasing `imm` more bytes (R233, R234). -/
def retNearBy (imm : Nat) (s : State) : Res State := do
  let v ← s.stackRead 0 s.os.width
  let t := newIp s.os.width v
  stopIf (!s.targetInCs t) (raise .gp 0)
  return (s.release (s.os.width.bytes + imm)).jump t

/-- RET far in real and V86 mode (R235, R236). -/
def retFarReal (imm : Nat) (s : State) : Res State := do
  let k := s.os.width.bytes
  let v ← s.stackRead 0 s.os.width
  let sel ← s.stackRead k s.os.width
  let t := newIp s.os.width v
  stopIf (decide (0xFFFF < t.toNat)) (raise .gp 0)
  return ((s.release (2 * k + imm)).setSeg .cs (s.segs.cs.loadedReal (sel.setWidth 16))).jump t

/-- The checks on the return selector's descriptor that both protected-mode cases share in form: non-null, inside its table,
a code segment, of the right level, present (R238 checks 1–6, R239 checks 2–7). The level of a non-conforming segment is
the RPL of the selector, which on the same level is CPL. -/
def State.returnCode (s : State) (sel : Word) : Res Descriptor := do
  stopIf (nullSel sel) (raise .gp 0)
  let d ← s.descOrGp sel
  stopIf (!d.isCode) (raise .gp (selCode sel))
  stopIf (!d.isConforming && d.dpl != rpl sel) (raise .gp (selCode sel))
  stopIf (d.isConforming && decide (s.cpl < d.dpl)) (raise .gp (selCode sel))
  stopIf (!d.present) (raise .np (selCode sel))
  return d

/-- SAME-LEVEL (R238). -/
def retSameLevel (imm : Nat) (sel : Word) (s : State) : Res State := do
  let d ← s.returnCode sel
  let v ← s.stackRead 0 s.os.width
  let t := newIp s.os.width v
  stopIf (!d.inLimit t.toNat 1) (raise .gp 0)
  return ((s.release (2 * s.os.width.bytes + imm)).setSeg .cs (SegReg.loaded sel d)).jump t

/-- The checks on the return SS selector, `level` being the RPL of the return CS selector (R239 checks 8–13). -/
def State.returnStack (s : State) (ssel : Word) (level : BitVec 2) : Res Descriptor := do
  stopIf (nullSel ssel) (raise .gp 0)
  let d ← s.descOrGp ssel
  stopIf (!d.isWritable) (raise .gp (selCode ssel))
  stopIf (rpl ssel != level) (raise .gp (selCode ssel))
  stopIf (d.dpl != level) (raise .gp (selCode ssel))
  stopIf (!d.present) (raise .ss (selCode ssel))
  return d

/-- A data-segment register stays usable at the outer level `cpl` (R241): its index inside its table, data or readable code,
and, unless conforming, DPL at least CPL and RPL; where exactly one of the two holds, `draw(1)` (92 D41). -/
def State.keptOutside (s : State) (r : SegReg) (cpl : BitVec 2) (slot : Config.Slot) : Bool :=
  if (s.desc r.selector).isNone || !r.cache.isReadable then false
  else if r.cache.isConforming then true
  else
    let a := decide (cpl ≤ r.cache.dpl)
    let b := decide (rpl r.selector ≤ r.cache.dpl)
    if a == b then a else Config.drawBit s.draws slot

/-- A data-segment register after a return to the outer level `cpl` (R241): null stays null, an unusable one is cleared. -/
def State.afterOuter (s : State) (r : SegReg) (cpl : BitVec 2) (slot : Config.Slot) : SegReg :=
  if nullSel r.selector || s.keptOutside r cpl slot then r else { r with selector := 0, valid := false }

/-- The outer stack pointer: the popped image, plus the immediate where `RET_OUTER_IMM` says so (R240; log 4). `s` has the
new SS. -/
def State.outerSp (s : State) (image : Dword) (imm : Nat) : State :=
  let t := s.setSp s.os image
  if imm = 0 then t
  else match Config.retOuterImm with
    | .none => t
    | .add => t.release imm

/-- OUTER-LEVEL (R239–R241). -/
def retOuterLevel (imm : Nat) (sel : Word) (s : State) : Res State := do
  let w := s.os.width
  let k := w.bytes
  stopIf (!s.segs.ss.cache.inLimit (s.spPlus 0).toNat (4 * k + imm)) (raise .ss 0)
  let ssImage ← s.stackRead (3 * k + imm) w
  let spImage ← s.stackRead (2 * k + imm) w
  let v ← s.stackRead 0 w
  let ssel : Word := ssImage.setWidth 16
  let d ← s.returnCode sel
  let ds ← s.returnStack ssel (rpl sel)
  let t := newIp w v
  stopIf (!d.inLimit t.toNat 1) (raise .gp 0)
  let u := ((s.setSeg .ss (SegReg.loaded ssel ds)).outerSp (spImage.setWidth 32) imm).setSeg .cs (SegReg.loaded sel d)
  let g := s.segs
  return ((((u.setSeg .es (s.afterOuter g.es (rpl sel) .keepEs)).setSeg .fs (s.afterOuter g.fs (rpl sel) .keepFs)).setSeg
    .gs (s.afterOuter g.gs (rpl sel) .keepGs)).setSeg .ds (s.afterOuter g.ds (rpl sel) .keepDs)).jump t

/-- RET far in protected mode: the dispatch on the RPL of the return selector (R237). -/
def retFarProt (imm : Nat) (s : State) : Res State := do
  let k := s.os.width.bytes
  stopIf (!s.segs.ss.cache.inLimit (s.spPlus (BitVec.ofNat 32 k)).toNat 2) (raise .ss 0)
  let cs ← s.stackRead k s.os.width
  let sel : Word := cs.setWidth 16
  stopIf (decide (rpl sel < s.cpl)) (raise .gp (selCode sel))
  if rpl sel = s.cpl then retSameLevel imm sel s else retOuterLevel imm sel s

/-- RET far, releasing `imm` more bytes (R235–R240). -/
def retFarBy (imm : Nat) (s : State) : Res State :=
  match s.mode with
  | .prot => retFarProt imm s
  | _ => retFarReal imm s

/-- RET near (C3; R233). -/
def execRetNear (s : State) : Host.Outcome State Fault Refusal := conclude s (retNearBy 0 s)

/-- RET near imm16 (C2; R234). -/
def execRetNearImm (imm : BitVec 16) (s : State) : Host.Outcome State Fault Refusal :=
  conclude s (retNearBy imm.toNat s)

/-- RET far (CB; R235, R237). -/
def execRetFar (s : State) : Host.Outcome State Fault Refusal := conclude s (retFarBy 0 s)

/-- RET far imm16 (CA; R236, R237). -/
def execRetFarImm (imm : BitVec 16) (s : State) : Host.Outcome State Fault Refusal :=
  conclude s (retFarBy imm.toNat s)

end Sys2Proof.Machine
end

