-- ==== Sys2Proof/Machine/Shift.lean ====
section
/-! DEFINITION. Rotates and shifts: ROL, ROR, RCL, RCR, SHL (= SAL), SHR, SAR, SHLD, SHRD (41_rotate_shift R190–R202). -/

namespace Sys2Proof.Machine

/-- The seven one-operand operations (R190). -/
inductive ShiftOp where
  | rol | ror | rcl | rcr | shl | shr | sar
  deriving DecidableEq, Repr

/-- A bit as an n-bit number. -/
def bitAs (n : Nat) (b : Bool) : BitVec n := (BitVec.ofBool b).setWidth n

/-- A bit at the top of n bits. -/
def topBit (n : Nat) (b : Bool) : BitVec n := bitAs n b <<< (n - 1)

/-- The one-bit step: the operand and CF after it (R192–R198). -/
def ShiftOp.step {n : Nat} (op : ShiftOp) (x : BitVec n) (cf : Bool) : BitVec n × Bool :=
  match op with
  | .rol => ((x <<< 1) ||| bitAs n x.msb, x.msb)
  | .ror => ((x >>> 1) ||| topBit n (x.getLsbD 0), x.getLsbD 0)
  | .rcl => ((x <<< 1) ||| bitAs n cf, x.msb)
  | .rcr => ((x >>> 1) ||| topBit n cf, x.getLsbD 0)
  | .shl => (x <<< 1, x.msb)
  | .shr => (x >>> 1, x.getLsbD 0)
  | .sar => ((x >>> 1) ||| topBit n x.msb, x.getLsbD 0)

/-- `c` repetitions of the one-bit step (R190). -/
def ShiftOp.steps {n : Nat} (op : ShiftOp) : Nat → BitVec n → Bool → BitVec n × Bool
  | 0, x, cf => (x, cf)
  | c + 1, x, cf =>
    let (y, cf') := op.step x cf
    op.steps c y cf'

/-- The effective count, `raw & 1Fh` (R190). -/
def shiftCount (raw : Byte) : Nat := raw.toNat % 32

/-- The operation moves bits up: RCL, ROL, SHL (R191). -/
def ShiftOp.isLeft : ShiftOp → Bool
  | .rol | .rcl | .shl => true
  | _ => false

/-- The operation is a shift, not a rotate. -/
def ShiftOp.isShift : ShiftOp → Bool
  | .shl | .shr | .sar => true
  | _ => false

/-- OF after a one-bit operation (R191). -/
def ShiftOp.oneBitOf {n : Nat} (op : ShiftOp) (r : BitVec n) (cf : Bool) : Bool :=
  if op.isLeft then cf != r.msb else r.msb != r.getLsbD (n - 2)

/-- CF after SHL or SHR by more than the width is a free value (R196, R198; 92 D11); otherwise the last step's. -/
def ShiftOp.carry (op : ShiftOp) (n c draws : Nat) (cf : Bool) : Bool :=
  if (op = .shl ∨ op = .shr) ∧ n < c then Config.drawBit draws .cf else cf

/-- EFLAGS after a rotate or shift by `c` that leaves the result `r` and the step's carry `cf` (R191; 92 D11, D21). -/
def ShiftOp.flags {n : Nat} (op : ShiftOp) (c draws : Nat) (r : BitVec n) (cf : Bool) (f : Dword) : Dword :=
  let f := setFlag f .cf (op.carry n c draws cf)
  let f := setFlag f .of (if c = 1 then op.oneBitOf r cf else Config.drawBit draws .of)
  if op.isShift ∧ c ≠ 0 then
    setFlag (setFlag (setFlag (setFlag f .sf (Config.drawBit draws .sf)) .zf (Config.drawBit draws .zf)) .pf
      (Config.drawBit draws .pf)) .af (Config.drawBit draws .af)
  else f

/-- A rotate or shift of an r/m operand by a raw count (R190–R198). -/
def shiftRm (op : ShiftOp) (w : Bool) (rm : RM) (raw : Byte) (s : State) : Res State := do
  let n := opWidth w s.os
  let c := shiftCount raw
  let t ← s.rmModify n rm fun x =>
    let (r, cf) := op.steps c x (flag s.eflags .cf)
    (r, s.setEflags (op.flags c s.draws r cf s.eflags))
  return t.advance

/-- CL (10_state R25). -/
def State.cl (s : State) : Byte := s.reg .byte .n1

/-- ROL r/m, 1 (D0/D1 /0; R194). -/
def execRol1 (w : Bool) (rm : RM) (s : State) : Host.Outcome State Fault Refusal := conclude s (shiftRm .rol w rm 1 s)

/-- ROL r/m, CL (D2/D3 /0; R194). -/
def execRolCl (w : Bool) (rm : RM) (s : State) : Host.Outcome State Fault Refusal :=
  conclude s (shiftRm .rol w rm s.cl s)

/-- ROL r/m, imm8 (C0/C1 /0; R194). -/
def execRolImm (w : Bool) (rm : RM) (n : Byte) (s : State) : Host.Outcome State Fault Refusal :=
  conclude s (shiftRm .rol w rm n s)

/-- ROR r/m, 1 (D0/D1 /1; R195). -/
def execRor1 (w : Bool) (rm : RM) (s : State) : Host.Outcome State Fault Refusal := conclude s (shiftRm .ror w rm 1 s)

/-- ROR r/m, CL (D2/D3 /1; R195). -/
def execRorCl (w : Bool) (rm : RM) (s : State) : Host.Outcome State Fault Refusal :=
  conclude s (shiftRm .ror w rm s.cl s)

/-- ROR r/m, imm8 (C0/C1 /1; R195). -/
def execRorImm (w : Bool) (rm : RM) (n : Byte) (s : State) : Host.Outcome State Fault Refusal :=
  conclude s (shiftRm .ror w rm n s)

/-- RCL r/m, 1 (D0/D1 /2; R192). -/
def execRcl1 (w : Bool) (rm : RM) (s : State) : Host.Outcome State Fault Refusal := conclude s (shiftRm .rcl w rm 1 s)

/-- RCL r/m, CL (D2/D3 /2; R192). -/
def execRclCl (w : Bool) (rm : RM) (s : State) : Host.Outcome State Fault Refusal :=
  conclude s (shiftRm .rcl w rm s.cl s)

/-- RCL r/m, imm8 (C0/C1 /2; R192). -/
def execRclImm (w : Bool) (rm : RM) (n : Byte) (s : State) : Host.Outcome State Fault Refusal :=
  conclude s (shiftRm .rcl w rm n s)

/-- RCR r/m, 1 (D0/D1 /3; R193). -/
def execRcr1 (w : Bool) (rm : RM) (s : State) : Host.Outcome State Fault Refusal := conclude s (shiftRm .rcr w rm 1 s)

/-- RCR r/m, CL (D2/D3 /3; R193). -/
def execRcrCl (w : Bool) (rm : RM) (s : State) : Host.Outcome State Fault Refusal :=
  conclude s (shiftRm .rcr w rm s.cl s)

/-- RCR r/m, imm8 (C0/C1 /3; R193). -/
def execRcrImm (w : Bool) (rm : RM) (n : Byte) (s : State) : Host.Outcome State Fault Refusal :=
  conclude s (shiftRm .rcr w rm n s)

/-- SHL (SAL) r/m, 1 (D0/D1 /4; R196). -/
def execShl1 (w : Bool) (rm : RM) (s : State) : Host.Outcome State Fault Refusal := conclude s (shiftRm .shl w rm 1 s)

/-- SHL (SAL) r/m, CL (D2/D3 /4; R196). -/
def execShlCl (w : Bool) (rm : RM) (s : State) : Host.Outcome State Fault Refusal :=
  conclude s (shiftRm .shl w rm s.cl s)

/-- SHL (SAL) r/m, imm8 (C0/C1 /4; R196). -/
def execShlImm (w : Bool) (rm : RM) (n : Byte) (s : State) : Host.Outcome State Fault Refusal :=
  conclude s (shiftRm .shl w rm n s)

/-- SHR r/m, 1 (D0/D1 /5; R198). -/
def execShr1 (w : Bool) (rm : RM) (s : State) : Host.Outcome State Fault Refusal := conclude s (shiftRm .shr w rm 1 s)

/-- SHR r/m, CL (D2/D3 /5; R198). -/
def execShrCl (w : Bool) (rm : RM) (s : State) : Host.Outcome State Fault Refusal :=
  conclude s (shiftRm .shr w rm s.cl s)

/-- SHR r/m, imm8 (C0/C1 /5; R198). -/
def execShrImm (w : Bool) (rm : RM) (n : Byte) (s : State) : Host.Outcome State Fault Refusal :=
  conclude s (shiftRm .shr w rm n s)

/-- SAR r/m, 1 (D0/D1 /7; R197). -/
def execSar1 (w : Bool) (rm : RM) (s : State) : Host.Outcome State Fault Refusal := conclude s (shiftRm .sar w rm 1 s)

/-- SAR r/m, CL (D2/D3 /7; R197). -/
def execSarCl (w : Bool) (rm : RM) (s : State) : Host.Outcome State Fault Refusal :=
  conclude s (shiftRm .sar w rm s.cl s)

/-- SAR r/m, imm8 (C0/C1 /7; R197). -/
def execSarImm (w : Bool) (rm : RM) (n : Byte) (s : State) : Host.Outcome State Fault Refusal :=
  conclude s (shiftRm .sar w rm n s)

/-! ## SHLD, SHRD -/

/-- The result of a double shift by `1 ≤ c ≤ n`: left or right (R199–R200). -/
def doubleResult {n : Nat} (left : Bool) (c : Nat) (d s : BitVec n) : BitVec n :=
  if left then (d <<< c) ||| (s >>> (n - c)) else (d >>> c) ||| (s <<< (n - c))

/-- The last bit a double shift moves out of its first operand (R199–R200). -/
def doubleCarry {n : Nat} (left : Bool) (c : Nat) (d : BitVec n) : Bool :=
  if left then d.getLsbD (n - c) else d.getLsbD (c - 1)

/-- Operand and EFLAGS after a double shift (R199–R200; 92 D11): nothing changes when c = 0, everything is free when c > n. -/
def doubleShift {n : Nat} (left : Bool) (c draws : Nat) (d s : BitVec n) (f : Dword) : BitVec n × Dword :=
  if c = 0 then (d, f)
  else if n < c then
    ((Config.drawWord draws .result).setWidth n,
     setStatus f
       { cf := Config.drawBit draws .cf, of := Config.drawBit draws .of, sf := Config.drawBit draws .sf,
         zf := Config.drawBit draws .zf, af := Config.drawBit draws .af, pf := Config.drawBit draws .pf })
  else
    let r := doubleResult left c d s
    (r,
     setStatus f
       { cf := doubleCarry left c d, of := Config.drawBit draws .of, sf := r.msb, zf := r == 0#n,
         af := Config.drawBit draws .af, pf := parityOf r })

/-- SHLD and SHRD of an r/m operand and a register by a raw count, masked to 5 bits (R199; 92 D27). -/
def doubleRm (left : Bool) (rm : RM) (r : RegNum) (raw : Byte) (s : State) : Res State := do
  let n := s.os.width
  let t ← s.rmModify n rm fun d =>
    let (v, f) := doubleShift left (shiftCount raw) s.draws d (s.reg n r) s.eflags
    (v, s.setEflags f)
  return t.advance

/-- SHLD r/m, r, imm8 (0F A4; R199). -/
def execShldImm (rm : RM) (r : RegNum) (n : Byte) (s : State) : Host.Outcome State Fault Refusal :=
  conclude s (doubleRm true rm r n s)

/-- SHLD r/m, r, CL (0F A5; R199). -/
def execShldCl (rm : RM) (r : RegNum) (s : State) : Host.Outcome State Fault Refusal :=
  conclude s (doubleRm true rm r s.cl s)

/-- SHRD r/m, r, imm8 (0F AC; R200). -/
def execShrdImm (rm : RM) (r : RegNum) (n : Byte) (s : State) : Host.Outcome State Fault Refusal :=
  conclude s (doubleRm false rm r n s)

/-- SHRD r/m, r, CL (0F AD; R200). -/
def execShrdCl (rm : RM) (r : RegNum) (s : State) : Host.Outcome State Fault Refusal :=
  conclude s (doubleRm false rm r s.cl s)

end Sys2Proof.Machine
end

