-- ==== Sys2Proof/Machine/Stack.lean ====
section
/-! DEFINITION. The stack family: POP, POPA/POPAD, POPF/POPFD, PUSH, PUSHA/PUSHAD, PUSHF/PUSHFD (40_stack R150–R175). -/

namespace Sys2Proof.Machine

/-! ## POP -/

/-- A popped value goes to a general register (R152). Into (E)SP the parameter `POP_SP_ORDER` decides whether the increment
comes after the load or is lost (log 3). -/
def State.popToReg (s : State) (w : Width) (r : RegNum) (v : BitVec w.bits) : State :=
  if r = .n4 then
    match Config.popSpOrder with
    | .source => (s.setReg w r v).release w.bytes
    | .incrementFirst => (s.release w.bytes).setReg w r v
  else (s.release w.bytes).setReg w r v

/-- The address a POP writes to: computed before or after the increment where ESP is its base, by `POP_SP_ORDER`
(R151; log 3). -/
def State.popEa (s : State) (w : Width) (m : Mem) : Dword :=
  if espBased m then
    match Config.popSpOrder with
    | .source => s.ea m
    | .incrementFirst => (s.release w.bytes).ea m
  else s.ea m

/-- POP into a general register (R152). -/
def popReg (w : Width) (r : RegNum) (s : State) : Res State := do
  let v ← s.stackRead 0 w
  return (s.popToReg w r v).advance

/-- POP into memory (R151): the stack is read first, then the destination is checked and written. -/
def popMem (w : Width) (m : Mem) (s : State) : Res State := do
  let v ← s.stackRead 0 w
  let t ← (s.release w.bytes).memWrite (s.memSeg m) (s.popEa w m).toNat w v
  return t.advance

/-- POP into a segment register (R153–R155). DESIGN CHOICE (log 46): the increment of a POP SS is made at the stack address
size of the instruction's beginning, with the old SS, where the new one has another size attribute. -/
def popSeg (r : SReg) (s : State) : Res State := do
  let v ← s.stackRead 0 s.os.width
  let g ← s.loadSeg r (v.setWidth 16)
  return ((s.release s.os.width.bytes).setSeg r g).advance

/-- POP r/m16, r/m32 (8F /0; R151). -/
def execPopRm (rm : RM) (s : State) : Host.Outcome State Fault Refusal :=
  conclude s (match rm with
    | .reg r => popReg s.os.width r s
    | .mem m => popMem s.os.width m s)

/-- POP r16, r32 (58+reg; R152). -/
def execPopR (r : RegNum) (s : State) : Host.Outcome State Fault Refusal :=
  conclude s (popReg s.os.width r s)

/-- POP ES (07; R154). -/
def execPopEs (s : State) : Host.Outcome State Fault Refusal := conclude s (popSeg .es s)

/-- POP SS (17; R154): interrupts are inhibited until the following instruction has completed. -/
def execPopSs (s : State) : Host.Outcome State Fault Refusal :=
  conclude s (do
    let t ← popSeg .ss s
    return { t with inhibit := true })

/-- POP DS (1F; R154). -/
def execPopDs (s : State) : Host.Outcome State Fault Refusal := conclude s (popSeg .ds s)

/-- POP FS (0F A1; R153). -/
def execPopFs (s : State) : Host.Outcome State Fault Refusal := conclude s (popSeg .fs s)

/-- POP GS (0F A9; R153). -/
def execPopGs (s : State) : Host.Outcome State Fault Refusal := conclude s (popSeg .gs s)

/-! ## POPA, POPAD -/

/-- POPA and POPAD (R156–R157): eight items are read, the fourth is dropped, the pointer moves once. In V86 mode with IOPL
below 3 the parameter `V86_POPA_IOPL` decides (R161; log 5). -/
def popAll (w : Width) (s : State) : Res State := do
  stopIf (s.v86Trapped && Config.v86PopaFaults) (raise .gp 0)
  let di ← s.stackRead 0 w
  let si ← s.stackRead w.bytes w
  let bp ← s.stackRead (2 * w.bytes) w
  let _ ← s.stackRead (3 * w.bytes) w
  let bx ← s.stackRead (4 * w.bytes) w
  let dx ← s.stackRead (5 * w.bytes) w
  let cx ← s.stackRead (6 * w.bytes) w
  let ax ← s.stackRead (7 * w.bytes) w
  return (((((((((s.release (8 * w.bytes)).setReg w .n7 di).setReg w .n6 si).setReg w .n5 bp).setReg w .n3 bx).setReg w
    .n2 dx).setReg w .n1 cx).setReg w .n0 ax)).advance

/-- POPA (61, OS = 16; R156). -/
def execPopa (s : State) : Host.Outcome State Fault Refusal := conclude s (popAll .word s)

/-- POPAD (61, OS = 32; R157). -/
def execPopad (s : State) : Host.Outcome State Fault Refusal := conclude s (popAll .dword s)

/-! ## POPF, POPFD -/

/-- POPF may write IF: real mode, or CPL at most IOPL (R160). -/
def State.mayWriteIf (s : State) : Bool := s.mode == .real || decide (s.cpl ≤ s.iopl)

/-- POPF may write IOPL: real mode, or protected mode with CPL 0 (R160). -/
def State.mayWriteIopl (s : State) : Bool := s.mode == .real || (s.mode == .prot && s.cpl == 0)

/-- EFLAGS after POPF or POPFD of an image (R160). -/
def State.popfFlags (s : State) (image : Dword) : Dword :=
  popfMerge s.mayWriteIf s.mayWriteIopl s.eflags image

/-- POPF and POPFD (R158–R160). An image that would set TF is refused (R160; 60_exceptions R438, 92 D12, 93 F7), once it is
read (log 7). -/
def popFlags (w : Width) (s : State) : Res State := do
  stopIf s.v86Trapped (raise .gp 0)
  let (v, t) ← s.pop w
  stopIf (flag (v.setWidth 32) .tf) (refuse .singleStep)
  return (t.setEflags (s.popfFlags (v.setWidth 32))).advance

/-- POPF (9D, OS = 16; R158). -/
def execPopf (s : State) : Host.Outcome State Fault Refusal := conclude s (popFlags .word s)

/-- POPFD (9D, OS = 32; R159). -/
def execPopfd (s : State) : Host.Outcome State Fault Refusal := conclude s (popFlags .dword s)

/-! ## PUSH -/

/-- Push one item and finish. -/
def pushValue (w : Width) (v : BitVec w.bits) (s : State) : Res State := do
  let t ← s.push w v
  return t.advance

/-- PUSH of a segment register, its selector zero-extended to OS (R165). -/
def pushSeg (r : SReg) (s : State) : Res State :=
  pushValue s.os.width ((s.seg r).selector.setWidth s.os.width.bits) s

/-- PUSH r/m16, r/m32 (FF /6; R163): the operand is read before the pointer moves. -/
def execPushRm (rm : RM) (s : State) : Host.Outcome State Fault Refusal :=
  conclude s (do
    let v ← s.rmRead s.os.width rm
    pushValue s.os.width v s)

/-- PUSH r16, r32 (50+reg; R164, R168). -/
def execPushR (r : RegNum) (s : State) : Host.Outcome State Fault Refusal :=
  conclude s (pushValue s.os.width (s.reg s.os.width r) s)

/-- PUSH FS (0F A0; R165). -/
def execPushFs (s : State) : Host.Outcome State Fault Refusal := conclude s (pushSeg .fs s)

/-- PUSH GS (0F A8; R165). -/
def execPushGs (s : State) : Host.Outcome State Fault Refusal := conclude s (pushSeg .gs s)

/-- PUSH ES (06; R166). -/
def execPushEs (s : State) : Host.Outcome State Fault Refusal := conclude s (pushSeg .es s)

/-- PUSH CS (0E; R166). -/
def execPushCs (s : State) : Host.Outcome State Fault Refusal := conclude s (pushSeg .cs s)

/-- PUSH SS (16; R166). -/
def execPushSs (s : State) : Host.Outcome State Fault Refusal := conclude s (pushSeg .ss s)

/-- PUSH DS (1E; R166). -/
def execPushDs (s : State) : Host.Outcome State Fault Refusal := conclude s (pushSeg .ds s)

/-- PUSH imm16, imm32 (68; R167). -/
def execPushImm (imm : Imm) (s : State) : Host.Outcome State Fault Refusal :=
  conclude s (pushValue s.os.width (Imm.value s.os.width imm) s)

/-- PUSH imm8 (6A; R167): sign-extended to OS. -/
def execPushImm8 (imm : Byte) (s : State) : Host.Outcome State Fault Refusal :=
  conclude s (pushValue s.os.width (imm.signExtend s.os.width.bits) s)

/-! ## PUSHA, PUSHAD -/

/-- PUSHA and PUSHAD (R171–R172): the pointer pushed is the one the instruction began with. -/
def pushAll (w : Width) (s : State) : Res State := do
  let t ← s.push w (s.reg w .n0)
  let t ← t.push w (s.reg w .n1)
  let t ← t.push w (s.reg w .n2)
  let t ← t.push w (s.reg w .n3)
  let t ← t.push w (s.reg w .n4)
  let t ← t.push w (s.reg w .n5)
  let t ← t.push w (s.reg w .n6)
  let t ← t.push w (s.reg w .n7)
  return t.advance

/-- PUSHA (60, OS = 16; R171). -/
def execPusha (s : State) : Host.Outcome State Fault Refusal := conclude s (pushAll .word s)

/-- PUSHAD (60, OS = 32; R172). -/
def execPushad (s : State) : Host.Outcome State Fault Refusal := conclude s (pushAll .dword s)

/-! ## PUSHF, PUSHFD -/

/-- The image PUSHFD stores: bits 17:16 are a free value when VM or RF is set (R174). -/
def State.pushfdImage (s : State) : Dword :=
  if s.eflags &&& 0x30000 = 0 then s.eflags
  else (s.eflags &&& ~~~ 0x30000#32) ||| (Config.drawWord s.draws .vmRf &&& 0x30000)

/-- PUSHF and PUSHFD (R173–R174). -/
def pushFlags (w : Width) (v : BitVec w.bits) (s : State) : Res State := do
  stopIf s.v86Trapped (raise .gp 0)
  pushValue w v s

/-- PUSHF (9C, OS = 16; R173). -/
def execPushf (s : State) : Host.Outcome State Fault Refusal :=
  conclude s (pushFlags .word (s.eflags.setWidth 16) s)

/-- PUSHFD (9C, OS = 32; R174). -/
def execPushfd (s : State) : Host.Outcome State Fault Refusal :=
  conclude s (pushFlags .dword s.pushfdImage s)

end Sys2Proof.Machine
end

