-- ==== Sys2Proof/Machine/Strings.lean ====
section
/-! DEFINITION. SCAS and STOS with their repeated forms (45_string R310–R323). One iteration of a repeated form is one step. -/

namespace Sys2Proof.Machine

/-- The offset of the string element: EDI, or DI zero-extended, by the address size (R310). -/
def State.strIndex (s : State) : Dword :=
  match s.as with
  | .s32 => s.regs.edi
  | .s16 => (s.regs.edi.setWidth 16).setWidth 32

/-- A 32-bit register after a new value computed at the address size: at 16 bits only the low half is written (R24, R310). -/
def atAddressSize (as : OSize) (old v : Dword) : Dword :=
  match as with
  | .s32 => v
  | .s16 => lowWord old v

/-- (E)DI moved past the element: down when DF is set, up otherwise (R310). -/
def State.strMove (s : State) (w : Width) : State :=
  let d := BitVec.ofNat 32 w.bytes
  { s with regs := { s.regs with
      edi := atAddressSize s.as s.regs.edi (if flag s.eflags .df then s.regs.edi - d else s.regs.edi + d) } }

/-- The repeat count: ECX, or CX zero-extended, by the address size (R316). -/
def State.strCount (s : State) : Dword :=
  match s.as with
  | .s32 => s.regs.ecx
  | .s16 => (s.regs.ecx.setWidth 16).setWidth 32

/-- (E)CX decremented (R316). -/
def State.countDown (s : State) : State :=
  { s with regs := { s.regs with ecx := atAddressSize s.as s.regs.ecx (s.regs.ecx - 1) } }

/-- One string instruction: once, or one iteration of its repeated form (R316). `ends` is the termination test of the prefix,
made after the count has gone down (R317, R318). -/
def repeated (one : State → Res State) (ends : Rep → State → Bool) (s : State) : Res State :=
  match s.cur.rep with
  | none => do
    let t ← one s
    return t.advance
  | some r =>
    if s.strCount = 0 then .ok s.advance
    else do
      let t ← one s
      let t := t.countDown
      return if t.strCount = 0 || ends r t then t.advance else t.stay

/-- REPE ends on ZF = 0, REPNE on ZF = 1 (R317, R318). -/
def scasEnds (r : Rep) (s : State) : Bool :=
  match r with
  | .rep => !flag s.eflags .zf
  | .repne => flag s.eflags .zf

/-- REP before STOS ends by its count alone (R317). -/
def stosEnds (_ : Rep) (_ : State) : Bool := false

/-- One SCAS: the flags of the accumulator minus the element (R311). -/
def scasOne (w : Width) (s : State) : Res State := do
  let b ← s.memRead .es s.strIndex.toNat w
  return (s.withStatus (subFlags (s.reg w accNum) b false)).strMove w

/-- One STOS: the accumulator goes to the element (R315). -/
def stosOne (w : Width) (s : State) : Res State := do
  let t ← s.memWrite .es s.strIndex.toNat w (s.reg w accNum)
  return t.strMove w

/-- SCASB (AE; R311). -/
def execScasb (s : State) : Host.Outcome State Fault Refusal := conclude s (repeated (scasOne .byte) scasEnds s)

/-- SCASW (AF, OS = 16; R312). -/
def execScasw (s : State) : Host.Outcome State Fault Refusal := conclude s (repeated (scasOne .word) scasEnds s)

/-- SCASD (AF, OS = 32; R313). -/
def execScasd (s : State) : Host.Outcome State Fault Refusal := conclude s (repeated (scasOne .dword) scasEnds s)

/-- STOSB (AA; R315). -/
def execStosb (s : State) : Host.Outcome State Fault Refusal := conclude s (repeated (stosOne .byte) stosEnds s)

/-- STOSW (AB, OS = 16; R319). -/
def execStosw (s : State) : Host.Outcome State Fault Refusal := conclude s (repeated (stosOne .word) stosEnds s)

/-- STOSD (AB, OS = 32; R320). -/
def execStosd (s : State) : Host.Outcome State Fault Refusal := conclude s (repeated (stosOne .dword) stosEnds s)

end Sys2Proof.Machine
end

