-- ==== Sys2Proof/Machine/SystemStore.lean ====
section
/-! DEFINITION. SGDT, SIDT, SLDT, SMSW, STR, VERR, VERW (46_system_store R330–R349). -/

namespace Sys2Proof.Machine

/-- The base image of SGDT and SIDT: its top byte is a free value unless the register's is 0 (R333; 92 D10). -/
def baseImage (draws : Nat) (base : Dword) : Dword :=
  if base &&& 0xFF000000 = 0 then base
  else (base &&& 0x00FFFFFF) ||| (Config.drawWord draws .baseTop &&& 0xFF000000)

/-- The six bytes of a table register: the limit, then the base (R331). -/
def tableImage (draws : Nat) (t : TableReg) : List Byte :=
  leBytes 2 t.limit.toNat ++ leBytes 4 (baseImage draws t.base).toNat

/-- The two accesses of SGDT and SIDT, the limit's and then the base's, each with all its checks (R331; 60_exceptions R424 items
3 and 4): the addresses of the six bytes. DESIGN CHOICE (log 47): they are one operand, whose offsets do not wrap, at 2^16 or at
2^32, so the base's last byte may lie outside the segment. -/
def State.tableAccess (s : State) (m : Mem) : Res (List Nat) := do
  let ps ← s.access (s.memSeg m) (s.ea m).toNat 2 .write
  let qs ← s.access (s.memSeg m) ((s.ea m).toNat + 2) 4 .write
  return ps ++ qs

/-- Store a table register, once both accesses are checked; a register operand is an invalid opcode (R331; 30_encoding R130). -/
def storeTable (t : TableReg) (rm : RM) (s : State) : Res State :=
  match rm with
  | .reg _ => raiseBare .ud
  | .mem m => do
    let ps ← s.tableAccess m
    return (s.pokes ps (tableImage s.draws t)).advance

/-- SGDT m (0F 01 /0; R331). -/
def execSgdt (rm : RM) (s : State) : Host.Outcome State Fault Refusal := conclude s (storeTable s.gdtr rm s)

/-- SIDT m (0F 01 /1; R332). -/
def execSidt (rm : RM) (s : State) : Host.Outcome State Fault Refusal := conclude s (storeTable s.idtr rm s)

/-- `dst16 <- v` (R337): two bytes in memory whatever OS is; a 32-bit register gets a free upper half (92 D25). -/
def storeWord (v : Word) (rm : RM) (s : State) : Res State :=
  match rm with
  | .reg r =>
    match s.os with
    | .s16 => .ok (s.setReg .word r v).advance
    | .s32 => .ok (s.setReg .dword r (lowWord (Config.drawWord s.draws .upper) (v.setWidth 32))).advance
  | .mem m => do
    let u ← s.memWrite (s.memSeg m) (s.ea m).toNat .word v
    return u.advance

/-- An invalid opcode outside protected mode (30_encoding R129). -/
def State.needProt (s : State) : Res Unit := if s.mode = .prot then .ok () else raiseBare .ud

/-- SLDT r/m16 (0F 00 /0; R334). -/
def execSldt (rm : RM) (s : State) : Host.Outcome State Fault Refusal :=
  conclude s (do
    s.needProt
    storeWord s.ldtr.selector rm s)

/-- SMSW r/m16 (0F 01 /4; R335). -/
def execSmsw (rm : RM) (s : State) : Host.Outcome State Fault Refusal :=
  conclude s (storeWord (s.cr0.setWidth 16) rm s)

/-- STR r/m16 (0F 00 /1; R336). -/
def execStr (rm : RM) (s : State) : Host.Outcome State Fault Refusal :=
  conclude s (do
    s.needProt
    storeWord s.tr rm s)

/-- The descriptor may be used at the less privileged of CPL and the selector's RPL (R348). -/
def State.levelAllows (s : State) (sel : Word) (d : Descriptor) : Bool := decide (outerLevel s.cpl (rpl sel) ≤ d.dpl)

/-- `Readable`, of a descriptor found (R348). -/
def State.readable (s : State) (sel : Word) (d : Descriptor) : Bool :=
  d.isReadable && (d.isConforming || s.levelAllows sel d)

/-- `Writable`, of a descriptor found (R348). -/
def State.writable (s : State) (sel : Word) (d : Descriptor) : Bool := d.isWritable && s.levelAllows sel d

/-- What a check of a selector answers: false for a null selector and outside its table; reading the descriptor can
page-fault (R348, R349; log 41), whether or not CR0.PG is set (DESIGN CHOICE, log 13). -/
def State.verify (s : State) (sel : Word) (f : Descriptor → Bool) : Res Bool :=
  if nullSel sel then .ok false
  else match s.desc sel with
    | none => .ok false
    | some (.pageFault code lin) => raisePf code lin
    | some (.found d) => .ok (f d)

/-- VERR and VERW: ZF reports what a check of the selector answers (R346, R347). -/
def verifyRm (f : State → Word → Descriptor → Bool) (rm : RM) (s : State) : Res State := do
  s.needProt
  let sel ← s.rmRead .word rm
  let z ← s.verify sel (f s sel)
  return (s.setEflags (setFlag s.eflags .zf z)).advance

/-- VERR r/m16 (0F 00 /4; R346). -/
def execVerr (rm : RM) (s : State) : Host.Outcome State Fault Refusal := conclude s (verifyRm State.readable rm s)

/-- VERW r/m16 (0F 00 /5; R347). -/
def execVerw (rm : RM) (s : State) : Host.Outcome State Fault Refusal := conclude s (verifyRm State.writable rm s)

end Sys2Proof.Machine
end

