-- ==== Sys2Proof/Machine/WaitXchg.lean ====
section
/-! DEFINITION. WAIT, XCHG, XLATB (47_wait_xchg_xlat R360–R371). -/

namespace Sys2Proof.Machine

/-- CR0.TS, bit 3 (10_state R45). -/
def State.ts (s : State) : Bool := s.cr0.getLsbD 3

/-- One step of WAIT (R360): while BUSY is active it holds, EIP still at the WAIT byte (R361); when it completes, every
coprocessor store issued before it is in memory (20_memory R96). -/
def waitStep (s : State) : Res State :=
  if s.ts then raiseBare .nm
  else if s.pins.error then raiseBare .mf
  else if s.pins.busy then .ok s.stay
  else .ok s.commitStores.advance

/-- WAIT (9B; R360). -/
def execWait (s : State) : Host.Outcome State Fault Refusal := conclude s (waitStep s)

/-- XCHG r/m, reg: each takes the other's old value; with memory one indivisible read-modify-write, for the coprocessor's
stores too (R364; log 20). -/
def exchange (w : Width) (rm : RM) (r : RegNum) (s : State) : Res State :=
  match rm with
  | .reg x => .ok ((s.setReg w r (s.reg w x)).setReg w x (s.reg w r)).advance
  | .mem m => do
    let (ws, rs) ← s.accessRmw (s.memSeg m) (s.ea m).toNat w.bytes
    return ((s.setReg w r (s.valueAt w rs)).exchangeBytes ws (valueBytes w (s.reg w r))).advance

/-- XCHG r/m, reg (86, 87; R364). -/
def execXchgRmR (w : Bool) (rm : RM) (r : RegNum) (s : State) : Host.Outcome State Fault Refusal :=
  conclude s (exchange (opWidth w s.os) rm r s)

/-- XCHG AX or EAX, reg (90+reg; R366). -/
def execXchgAccR (r : RegNum) (s : State) : Host.Outcome State Fault Refusal :=
  conclude s (exchange s.os.width (.reg accNum) r s)

/-- The offset of XLATB's table element: (E)BX plus AL, at the address size (R370). -/
def State.xlatOffset (s : State) : Dword :=
  let v := s.regs.ebx + (s.reg .byte accNum).setWidth 32
  match s.as with
  | .s32 => v
  | .s16 => (v.setWidth 16).setWidth 32

/-- XLATB (R370): DS unless overridden. -/
def translate (s : State) : Res State := do
  let v ← s.memRead (s.cur.seg.getD .ds) s.xlatOffset.toNat .byte
  return (s.setReg .byte accNum v).advance

/-- XLATB (D7; R370). -/
def execXlatb (s : State) : Host.Outcome State Fault Refusal := conclude s (translate s)

end Sys2Proof.Machine
end

