-- ==== Sys2Proof/Machine/Dispatch.lean ====
section
/-! DEFINITION. From an instruction to its meaning: one arm per constructor of `Instr`, in the order of
spec/opcode_table.json. -/

namespace Sys2Proof.Machine

def exec (i : Instr) (s : State) : Host.Outcome State Fault Refusal :=
  match i with
  | .popRm rm => Sys2Proof.Machine.execPopRm rm s
  | .popR r => Sys2Proof.Machine.execPopR r s
  | .popEs => Sys2Proof.Machine.execPopEs s
  | .popSs => Sys2Proof.Machine.execPopSs s
  | .popDs => Sys2Proof.Machine.execPopDs s
  | .popFs => Sys2Proof.Machine.execPopFs s
  | .popGs => Sys2Proof.Machine.execPopGs s
  | .popa => Sys2Proof.Machine.execPopa s
  | .popad => Sys2Proof.Machine.execPopad s
  | .popf => Sys2Proof.Machine.execPopf s
  | .popfd => Sys2Proof.Machine.execPopfd s
  | .pushRm rm => Sys2Proof.Machine.execPushRm rm s
  | .pushR r => Sys2Proof.Machine.execPushR r s
  | .pushFs => Sys2Proof.Machine.execPushFs s
  | .pushGs => Sys2Proof.Machine.execPushGs s
  | .pushEs => Sys2Proof.Machine.execPushEs s
  | .pushCs => Sys2Proof.Machine.execPushCs s
  | .pushSs => Sys2Proof.Machine.execPushSs s
  | .pushDs => Sys2Proof.Machine.execPushDs s
  | .pushImm imm => Sys2Proof.Machine.execPushImm imm s
  | .pushImm8 imm => Sys2Proof.Machine.execPushImm8 imm s
  | .pusha => Sys2Proof.Machine.execPusha s
  | .pushad => Sys2Proof.Machine.execPushad s
  | .pushf => Sys2Proof.Machine.execPushf s
  | .pushfd => Sys2Proof.Machine.execPushfd s
  | .rol1 w rm => Sys2Proof.Machine.execRol1 w rm s
  | .rolCl w rm => Sys2Proof.Machine.execRolCl w rm s
  | .rolImm w rm n => Sys2Proof.Machine.execRolImm w rm n s
  | .ror1 w rm => Sys2Proof.Machine.execRor1 w rm s
  | .rorCl w rm => Sys2Proof.Machine.execRorCl w rm s
  | .rorImm w rm n => Sys2Proof.Machine.execRorImm w rm n s
  | .rcl1 w rm => Sys2Proof.Machine.execRcl1 w rm s
  | .rclCl w rm => Sys2Proof.Machine.execRclCl w rm s
  | .rclImm w rm n => Sys2Proof.Machine.execRclImm w rm n s
  | .rcr1 w rm => Sys2Proof.Machine.execRcr1 w rm s
  | .rcrCl w rm => Sys2Proof.Machine.execRcrCl w rm s
  | .rcrImm w rm n => Sys2Proof.Machine.execRcrImm w rm n s
  | .shl1 w rm => Sys2Proof.Machine.execShl1 w rm s
  | .shlCl w rm => Sys2Proof.Machine.execShlCl w rm s
  | .shlImm w rm n => Sys2Proof.Machine.execShlImm w rm n s
  | .shr1 w rm => Sys2Proof.Machine.execShr1 w rm s
  | .shrCl w rm => Sys2Proof.Machine.execShrCl w rm s
  | .shrImm w rm n => Sys2Proof.Machine.execShrImm w rm n s
  | .sar1 w rm => Sys2Proof.Machine.execSar1 w rm s
  | .sarCl w rm => Sys2Proof.Machine.execSarCl w rm s
  | .sarImm w rm n => Sys2Proof.Machine.execSarImm w rm n s
  | .shldImm rm r n => Sys2Proof.Machine.execShldImm rm r n s
  | .shldCl rm r => Sys2Proof.Machine.execShldCl rm r s
  | .shrdImm rm r n => Sys2Proof.Machine.execShrdImm rm r n s
  | .shrdCl rm r => Sys2Proof.Machine.execShrdCl rm r s
  | .retNear => Sys2Proof.Machine.execRetNear s
  | .retNearImm imm => Sys2Proof.Machine.execRetNearImm imm s
  | .retFar => Sys2Proof.Machine.execRetFar s
  | .retFarImm imm => Sys2Proof.Machine.execRetFarImm imm s
  | .sahf => Sys2Proof.Machine.execSahf s
  | .seto rm => Sys2Proof.Machine.execSeto rm s
  | .setno rm => Sys2Proof.Machine.execSetno rm s
  | .setb rm => Sys2Proof.Machine.execSetb rm s
  | .setnb rm => Sys2Proof.Machine.execSetnb rm s
  | .sete rm => Sys2Proof.Machine.execSete rm s
  | .setne rm => Sys2Proof.Machine.execSetne rm s
  | .setbe rm => Sys2Proof.Machine.execSetbe rm s
  | .setnbe rm => Sys2Proof.Machine.execSetnbe rm s
  | .sets rm => Sys2Proof.Machine.execSets rm s
  | .setns rm => Sys2Proof.Machine.execSetns rm s
  | .setp rm => Sys2Proof.Machine.execSetp rm s
  | .setnp rm => Sys2Proof.Machine.execSetnp rm s
  | .setl rm => Sys2Proof.Machine.execSetl rm s
  | .setnl rm => Sys2Proof.Machine.execSetnl rm s
  | .setle rm => Sys2Proof.Machine.execSetle rm s
  | .setnle rm => Sys2Proof.Machine.execSetnle rm s
  | .stc => Sys2Proof.Machine.execStc s
  | .std => Sys2Proof.Machine.execStd s
  | .sti => Sys2Proof.Machine.execSti s
  | .sbbRmR w rm r => Sys2Proof.Machine.execSbbRmR w rm r s
  | .sbbRRm w r rm => Sys2Proof.Machine.execSbbRRm w r rm s
  | .sbbRmImm sx w rm imm => Sys2Proof.Machine.execSbbRmImm sx w rm imm s
  | .sbbAccImm w imm => Sys2Proof.Machine.execSbbAccImm w imm s
  | .testRmR w rm r => Sys2Proof.Machine.execTestRmR w rm r s
  | .testRmImm w rm imm => Sys2Proof.Machine.execTestRmImm w rm imm s
  | .testAccImm w imm => Sys2Proof.Machine.execTestAccImm w imm s
  | .subRmR w rm r => Sys2Proof.Machine.execSubRmR w rm r s
  | .subRRm w r rm => Sys2Proof.Machine.execSubRRm w r rm s
  | .subRmImm sx w rm imm => Sys2Proof.Machine.execSubRmImm sx w rm imm s
  | .subAccImm w imm => Sys2Proof.Machine.execSubAccImm w imm s
  | .xorRmR w rm r => Sys2Proof.Machine.execXorRmR w rm r s
  | .xorRRm w r rm => Sys2Proof.Machine.execXorRRm w r rm s
  | .xorRmImm sx w rm imm => Sys2Proof.Machine.execXorRmImm sx w rm imm s
  | .xorAccImm w imm => Sys2Proof.Machine.execXorAccImm w imm s
  | .scasb => Sys2Proof.Machine.execScasb s
  | .scasw => Sys2Proof.Machine.execScasw s
  | .scasd => Sys2Proof.Machine.execScasd s
  | .stosb => Sys2Proof.Machine.execStosb s
  | .stosw => Sys2Proof.Machine.execStosw s
  | .stosd => Sys2Proof.Machine.execStosd s
  | .repPfx => Sys2Proof.Machine.execRepPfx s
  | .repnePfx => Sys2Proof.Machine.execRepnePfx s
  | .sgdt rm => Sys2Proof.Machine.execSgdt rm s
  | .sidt rm => Sys2Proof.Machine.execSidt rm s
  | .sldt rm => Sys2Proof.Machine.execSldt rm s
  | .smsw rm => Sys2Proof.Machine.execSmsw rm s
  | .str rm => Sys2Proof.Machine.execStr rm s
  | .verr rm => Sys2Proof.Machine.execVerr rm s
  | .verw rm => Sys2Proof.Machine.execVerw rm s
  | .wait => Sys2Proof.Machine.execWait s
  | .xchgRmR w rm r => Sys2Proof.Machine.execXchgRmR w rm r s
  | .xchgAccR r => Sys2Proof.Machine.execXchgAccR r s
  | .xlatb => Sys2Proof.Machine.execXlatb s
  | .opSizePfx => Sys2Proof.Machine.execOpSizePfx s
  | .addrSizePfx => Sys2Proof.Machine.execAddrSizePfx s
  | .csPfx => Sys2Proof.Machine.execCsPfx s
  | .ssPfx => Sys2Proof.Machine.execSsPfx s
  | .dsPfx => Sys2Proof.Machine.execDsPfx s
  | .esPfx => Sys2Proof.Machine.execEsPfx s
  | .fsPfx => Sys2Proof.Machine.execFsPfx s
  | .gsPfx => Sys2Proof.Machine.execGsPfx s
  | .lockPfx => Sys2Proof.Machine.execLockPfx s

end Sys2Proof.Machine
end

