-- ==== Sys2Proof/WellFormed.lean ====
section
/-! DEFINITION. Which instructions an encoding exists for, given the two size attributes (30_encoding R114–R121, R124,
R126): the operand forms ModRM cannot express, and the immediates and size-bound mnemonics that do not fit `OS`. -/

namespace Sys2Proof

/-- The size attributes under which an instruction is decoded (R124). -/
structure Ctx where
  os : OSize
  as : OSize
  deriving DecidableEq, Repr, Inhabited

/-- A memory operand that ModRM and SIB can express at address size `as` (R114–R116). -/
def Mem.wf (as : OSize) : Mem → Bool
  | .base16 b d => as == .s16 && !(b == .bp && d == .none)
  | .abs16 _ => as == .s16
  | .base32 b d => as == .s32 && !(b == .n4) && !(b == .n5 && d == .none)
  | .abs32 _ => as == .s32
  | .sib _ _ b d => as == .s32 && !(b == .n5 && d == .none)
  | .sibAbs _ _ _ => as == .s32

/-- An r/m operand that ModRM can express. -/
def RM.wf (as : OSize) : RM → Bool
  | .reg _ => true
  | .mem m => m.wf as

/-- A full-size immediate: imm8 when w = 0, imm16 or imm32 by `OS` when w = 1 (R121). -/
def Imm.fits (w : Bool) (os : OSize) : Imm → Bool
  | .i8 _ => !w
  | .i16 _ => w && os == .s16
  | .i32 _ => w && os == .s32

/-- The immediate of `100000sw`: imm8 unless s = 0 and w = 1 (R121). -/
def Imm.fitsSW (s w : Bool) (os : OSize) (i : Imm) : Bool :=
  i.fits (!s && w) os

/-- The instruction has an encoding under `c`. -/
def WellFormed (c : Ctx) : Instr → Bool
  | .popRm rm | .pushRm rm => rm.wf c.as
  | .popa | .popf | .pusha | .pushf | .scasw | .stosw => c.os == .s16
  | .popad | .popfd | .pushad | .pushfd | .scasd | .stosd => c.os == .s32
  | .pushImm imm => imm.fits true c.os
  | .rol1 _ rm | .rolCl _ rm | .rolImm _ rm _ | .ror1 _ rm | .rorCl _ rm | .rorImm _ rm _
  | .rcl1 _ rm | .rclCl _ rm | .rclImm _ rm _ | .rcr1 _ rm | .rcrCl _ rm | .rcrImm _ rm _
  | .shl1 _ rm | .shlCl _ rm | .shlImm _ rm _ | .shr1 _ rm | .shrCl _ rm | .shrImm _ rm _
  | .sar1 _ rm | .sarCl _ rm | .sarImm _ rm _ => rm.wf c.as
  | .shldImm rm _ _ | .shldCl rm _ | .shrdImm rm _ _ | .shrdCl rm _ => rm.wf c.as
  | .seto rm | .setno rm | .setb rm | .setnb rm | .sete rm | .setne rm | .setbe rm | .setnbe rm
  | .sets rm | .setns rm | .setp rm | .setnp rm | .setl rm | .setnl rm | .setle rm | .setnle rm => rm.wf c.as
  | .sbbRmR _ rm _ | .sbbRRm _ _ rm | .testRmR _ rm _ | .subRmR _ rm _ | .subRRm _ _ rm
  | .xorRmR _ rm _ | .xorRRm _ _ rm | .xchgRmR _ rm _ => rm.wf c.as
  | .sbbRmImm s w rm imm | .subRmImm s w rm imm | .xorRmImm s w rm imm => rm.wf c.as && imm.fitsSW s w c.os
  | .testRmImm w rm imm => rm.wf c.as && imm.fits w c.os
  | .sbbAccImm w imm | .testAccImm w imm | .subAccImm w imm | .xorAccImm w imm => imm.fits w c.os
  | .sgdt rm | .sidt rm | .sldt rm | .smsw rm | .str rm | .verr rm | .verw rm => rm.wf c.as
  | .popR _ | .popEs | .popSs | .popDs | .popFs | .popGs | .pushR _ | .pushFs | .pushGs | .pushEs | .pushCs
  | .pushSs | .pushDs | .pushImm8 _ | .retNear | .retNearImm _ | .retFar | .retFarImm _ | .sahf | .stc | .std | .sti
  | .scasb | .stosb | .repPfx | .repnePfx | .wait | .xchgAccR _ | .xlatb | .opSizePfx | .addrSizePfx | .csPfx
  | .ssPfx | .dsPfx | .esPfx | .fsPfx | .gsPfx | .lockPfx => true

end Sys2Proof
end

