-- ==== Sys2Proof/Decode.lean ====
section
/-! DEFINITION. Decoding: from the bytes of an instruction (30_encoding) to the instruction, total, rejecting by name; and
the encoder, written from the same tables. One item is decoded at a time: a prefix byte (R111) or an instruction from its
opcode byte on. -/

namespace Sys2Proof

/-- Why bytes do not decode. -/
inductive DecErr where
  /-- the bytes given end inside the instruction -/
  | truncated
  /-- an opcode or extension slot the source does not define (R131) -/
  | notInSource
  deriving DecidableEq, Repr, Inhabited

/-! ## Fields -/

/-- The register number a 3-bit field holds (10_state R23). -/
def RegNum.ofBits (b : BitVec 3) : RegNum :=
  match b.toNat with
  | 0 => .n0
  | 1 => .n1
  | 2 => .n2
  | 3 => .n3
  | 4 => .n4
  | 5 => .n5
  | 6 => .n6
  | _ => .n7

/-- The 3-bit field of a register number. -/
def RegNum.toBits : RegNum → BitVec 3
  | .n0 => 0
  | .n1 => 1
  | .n2 => 2
  | .n3 => 3
  | .n4 => 4
  | .n5 => 5
  | .n6 => 6
  | .n7 => 7

/-- The row of the 16-bit addressing table an r/m field selects (R116). -/
def Base16.ofBits (b : BitVec 3) : Base16 :=
  match b.toNat with
  | 0 => .bxSi
  | 1 => .bxDi
  | 2 => .bpSi
  | 3 => .bpDi
  | 4 => .si
  | 5 => .di
  | 6 => .bp
  | _ => .bx

/-- The r/m field of a row of the 16-bit addressing table. -/
def Base16.toBits : Base16 → BitVec 3
  | .bxSi => 0
  | .bxDi => 1
  | .bpSi => 2
  | .bpDi => 3
  | .si => 4
  | .di => 5
  | .bp => 6
  | .bx => 7

/-- The scale a 2-bit `ss` field holds (R115). -/
def Scale.ofBits (b : BitVec 2) : Scale :=
  match b.toNat with
  | 0 => .x1
  | 1 => .x2
  | 2 => .x4
  | _ => .x8

/-- The `ss` field of a scale. -/
def Scale.toBits : Scale → BitVec 2
  | .x1 => 0
  | .x2 => 1
  | .x4 => 2
  | .x8 => 3

/-- Bits 7:6 of a ModRM or SIB byte (R113, R115). -/
def fieldMod (b : Byte) : BitVec 2 := b.extractLsb' 6 2

/-- Bits 5:3 of a ModRM or SIB byte. -/
def fieldReg (b : Byte) : BitVec 3 := b.extractLsb' 3 3

/-- Bits 2:0 of a ModRM or SIB byte, and of a short-form opcode (R118). -/
def fieldRm (b : Byte) : BitVec 3 := b.extractLsb' 0 3

/-- A byte put together from its fields at bits 7:6, 5:3 and 2:0. -/
def joinFields (m : BitVec 2) (reg rm : BitVec 3) : Byte := m ++ reg ++ rm

/-- The bit `w`, bit 0 of the opcode byte (R119). -/
def bitW (b : Byte) : Bool := b.getLsbD 0

/-- The bit `s`, bit 1 of the opcode byte of `100000sw` (R121). -/
def bitS (b : Byte) : Bool := b.getLsbD 1

/-! ## Little-endian fields -/

/-- Take one byte. -/
def take8 : List Byte → Except DecErr (Byte × List Byte)
  | b :: rest => .ok (b, rest)
  | [] => .error .truncated

/-- Take a 16-bit little-endian field (20_memory R81). -/
def take16 : List Byte → Except DecErr (BitVec 16 × List Byte)
  | b0 :: b1 :: rest => .ok (b1 ++ b0, rest)
  | _ => .error .truncated

/-- Take a 32-bit little-endian field. -/
def take32 : List Byte → Except DecErr (BitVec 32 × List Byte)
  | b0 :: b1 :: b2 :: b3 :: rest => .ok (b3 ++ b2 ++ b1 ++ b0, rest)
  | _ => .error .truncated

/-- The bytes of a 16-bit field, lowest address first. -/
def bytes16 (v : BitVec 16) : List Byte := [v.extractLsb' 0 8, v.extractLsb' 8 8]

/-- The bytes of a 32-bit field, lowest address first. -/
def bytes32 (v : BitVec 32) : List Byte :=
  [v.extractLsb' 0 8, v.extractLsb' 8 8, v.extractLsb' 16 8, v.extractLsb' 24 8]

/-! ## ModRM and SIB -/

/-- The displacement after a 16-bit base form, by `mod` (R116). -/
def takeDisp16 (md : BitVec 2) (bs : List Byte) : Except DecErr (Disp16 × List Byte) :=
  match md.toNat with
  | 0 => .ok (.none, bs)
  | 1 => do
    let (d, rest) ← take8 bs
    return (.d8 d, rest)
  | _ => do
    let (d, rest) ← take16 bs
    return (.d16 d, rest)

/-- The displacement after a 32-bit base, by `mod` (R114–R115). -/
def takeDisp32 (md : BitVec 2) (bs : List Byte) : Except DecErr (Disp32 × List Byte) :=
  match md.toNat with
  | 0 => .ok (.none, bs)
  | 1 => do
    let (d, rest) ← take8 bs
    return (.d8 d, rest)
  | _ => do
    let (d, rest) ← take32 bs
    return (.d32 d, rest)

/-- A memory operand at AS = 16 (R116). -/
def takeMem16 (md : BitVec 2) (rm : BitVec 3) (bs : List Byte) : Except DecErr (Mem × List Byte) :=
  if md == 0 && rm == 6 then do
    let (d, rest) ← take16 bs
    return (.abs16 d, rest)
  else do
    let (d, rest) ← takeDisp16 md bs
    return (.base16 (Base16.ofBits rm) d, rest)

/-- The operand a SIB byte begins (R115). -/
def takeSib (md : BitVec 2) (bs : List Byte) : Except DecErr (Mem × List Byte) := do
  let (b, rest) ← take8 bs
  if md == 0 && fieldRm b == 5 then
    let (d, rest) ← take32 rest
    return (.sibAbs (Scale.ofBits (fieldMod b)) (RegNum.ofBits (fieldReg b)) d, rest)
  else
    let (d, rest) ← takeDisp32 md rest
    return (.sib (Scale.ofBits (fieldMod b)) (RegNum.ofBits (fieldReg b)) (RegNum.ofBits (fieldRm b)) d, rest)

/-- A memory operand at AS = 32 (R114). -/
def takeMem32 (md : BitVec 2) (rm : BitVec 3) (bs : List Byte) : Except DecErr (Mem × List Byte) :=
  if rm == 4 then takeSib md bs
  else if md == 0 && rm == 5 then do
    let (d, rest) ← take32 bs
    return (.abs32 d, rest)
  else do
    let (d, rest) ← takeDisp32 md bs
    return (.base32 (RegNum.ofBits rm) d, rest)

/-- The memory operand after a ModRM byte, by address size. -/
def takeMem (as : OSize) (md : BitVec 2) (rm : BitVec 3) (bs : List Byte) : Except DecErr (Mem × List Byte) :=
  match as with
  | .s16 => takeMem16 md rm bs
  | .s32 => takeMem32 md rm bs

/-- A ModRM byte and what follows it: the `reg` field, the r/m operand, the bytes left (R113–R117). -/
def takeModRM (as : OSize) (bs : List Byte) : Except DecErr (RegNum × RM × List Byte) := do
  let (b, rest) ← take8 bs
  if fieldMod b == 3 then
    return (RegNum.ofBits (fieldReg b), .reg (RegNum.ofBits (fieldRm b)), rest)
  else
    let (m, rest) ← takeMem as (fieldMod b) (fieldRm b) rest
    return (RegNum.ofBits (fieldReg b), .mem m, rest)

/-- The size of an immediate (R121). -/
inductive ImmSize where
  | i8 | i16 | i32
  deriving DecidableEq, Repr, Inhabited

/-- imm8 when w = 0, imm16 or imm32 by `OS` when w = 1 (R121). -/
def immSize (w : Bool) (os : OSize) : ImmSize :=
  match w, os with
  | false, _ => .i8
  | true, .s16 => .i16
  | true, .s32 => .i32

/-- Take an immediate. -/
def takeImm (k : ImmSize) (bs : List Byte) : Except DecErr (Imm × List Byte) :=
  match k with
  | .i8 => do
    let (v, rest) ← take8 bs
    return (.i8 v, rest)
  | .i16 => do
    let (v, rest) ← take16 bs
    return (.i16 v, rest)
  | .i32 => do
    let (v, rest) ← take32 bs
    return (.i32 v, rest)

/-! ## The opcode map (R126–R128) -/

/-- What follows an opcode byte, and the instruction it then makes. A ModRM form is told its `reg` field, which may be an
extension that names no instruction (R131). -/
inductive Form where
  | plain (i : Instr)
  | modrm (f : RegNum → Option (RM → Instr))
  | modrmI8 (f : RegNum → Option (RM → Byte → Instr))
  | modrmImm (k : ImmSize) (f : RegNum → Option (RM → Imm → Instr))
  | imm8 (f : Byte → Instr)
  | imm16 (f : BitVec 16 → Instr)
  | imm (k : ImmSize) (f : Imm → Instr)

/-- A row of the opcode map: the byte matches when it agrees with `pat` on the bits of `mask`. -/
structure OpRow where
  pat : Byte
  mask : Byte
  form : Byte → Form

/-- The row applies to the byte. -/
def OpRow.hits (r : OpRow) (b : Byte) : Bool := b &&& r.mask == r.pat

/-- An extension `/n` that stands for exactly one instruction (R117). -/
def only {α : Type} (n : RegNum) (f : α) (x : RegNum) : Option α := if x = n then some f else none

/-- `100000sw /n` (R127). -/
def group80 (s w : Bool) : RegNum → Option (RM → Imm → Instr)
  | .n3 => some (.sbbRmImm s w)
  | .n5 => some (.subRmImm s w)
  | .n6 => some (.xorRmImm s w)
  | _ => none

/-- `1101000w /n`: by 1 (41_rotate_shift R190). -/
def groupD0 (w : Bool) : RegNum → Option (RM → Instr)
  | .n0 => some (.rol1 w)
  | .n1 => some (.ror1 w)
  | .n2 => some (.rcl1 w)
  | .n3 => some (.rcr1 w)
  | .n4 => some (.shl1 w)
  | .n5 => some (.shr1 w)
  | .n6 => none
  | .n7 => some (.sar1 w)

/-- `1101001w /n`: by CL. -/
def groupD2 (w : Bool) : RegNum → Option (RM → Instr)
  | .n0 => some (.rolCl w)
  | .n1 => some (.rorCl w)
  | .n2 => some (.rclCl w)
  | .n3 => some (.rcrCl w)
  | .n4 => some (.shlCl w)
  | .n5 => some (.shrCl w)
  | .n6 => none
  | .n7 => some (.sarCl w)

/-- `1100000w /n ib`: by an immediate count. -/
def groupC0 (w : Bool) : RegNum → Option (RM → Byte → Instr)
  | .n0 => some (.rolImm w)
  | .n1 => some (.rorImm w)
  | .n2 => some (.rclImm w)
  | .n3 => some (.rcrImm w)
  | .n4 => some (.shlImm w)
  | .n5 => some (.shrImm w)
  | .n6 => none
  | .n7 => some (.sarImm w)

/-- `0F 00 /n` (R128). -/
def group0F00 : RegNum → Option (RM → Instr)
  | .n0 => some .sldt
  | .n1 => some .str
  | .n4 => some .verr
  | .n5 => some .verw
  | _ => none

/-- `0F 01 /n` (R128). -/
def group0F01 : RegNum → Option (RM → Instr)
  | .n0 => some .sgdt
  | .n1 => some .sidt
  | .n4 => some .smsw
  | _ => none

/-- One of two instructions by the operand size (the mnemonic pairs of R134). -/
def bySize (c : Ctx) (i16 i32 : Instr) : Instr :=
  match c.os with
  | .s16 => i16
  | .s32 => i32

/-- The prefix bytes (R111). -/
def rowsPfx : List OpRow :=
  [ ⟨0x66, 0xFF, fun _ => .plain .opSizePfx⟩,
    ⟨0x67, 0xFF, fun _ => .plain .addrSizePfx⟩,
    ⟨0x2E, 0xFF, fun _ => .plain .csPfx⟩,
    ⟨0x36, 0xFF, fun _ => .plain .ssPfx⟩,
    ⟨0x3E, 0xFF, fun _ => .plain .dsPfx⟩,
    ⟨0x26, 0xFF, fun _ => .plain .esPfx⟩,
    ⟨0x64, 0xFF, fun _ => .plain .fsPfx⟩,
    ⟨0x65, 0xFF, fun _ => .plain .gsPfx⟩,
    ⟨0xF3, 0xFF, fun _ => .plain .repPfx⟩,
    ⟨0xF2, 0xFF, fun _ => .plain .repnePfx⟩,
    ⟨0xF0, 0xFF, fun _ => .plain .lockPfx⟩ ]

/-- The stack family's one-byte opcodes (R127). -/
def rowsStack (c : Ctx) : List OpRow :=
  [ ⟨0x50, 0xF8, fun b => .plain (.pushR (RegNum.ofBits (fieldRm b)))⟩,
    ⟨0x58, 0xF8, fun b => .plain (.popR (RegNum.ofBits (fieldRm b)))⟩,
    ⟨0x06, 0xFF, fun _ => .plain .pushEs⟩,
    ⟨0x0E, 0xFF, fun _ => .plain .pushCs⟩,
    ⟨0x16, 0xFF, fun _ => .plain .pushSs⟩,
    ⟨0x1E, 0xFF, fun _ => .plain .pushDs⟩,
    ⟨0x07, 0xFF, fun _ => .plain .popEs⟩,
    ⟨0x17, 0xFF, fun _ => .plain .popSs⟩,
    ⟨0x1F, 0xFF, fun _ => .plain .popDs⟩,
    ⟨0x60, 0xFF, fun _ => .plain (bySize c .pusha .pushad)⟩,
    ⟨0x61, 0xFF, fun _ => .plain (bySize c .popa .popad)⟩,
    ⟨0x68, 0xFF, fun _ => .imm (immSize true c.os) .pushImm⟩,
    ⟨0x6A, 0xFF, fun _ => .imm8 .pushImm8⟩,
    ⟨0x8F, 0xFF, fun _ => .modrm (only .n0 .popRm)⟩,
    ⟨0x9C, 0xFF, fun _ => .plain (bySize c .pushf .pushfd)⟩,
    ⟨0x9D, 0xFF, fun _ => .plain (bySize c .popf .popfd)⟩,
    ⟨0xFF, 0xFF, fun _ => .modrm (only .n6 .pushRm)⟩ ]

/-- The arithmetic, logic and exchange opcodes (R127). -/
def rowsArith (c : Ctx) : List OpRow :=
  [ ⟨0x18, 0xFE, fun b => .modrm fun r => some fun rm => .sbbRmR (bitW b) rm r⟩,
    ⟨0x1A, 0xFE, fun b => .modrm fun r => some (.sbbRRm (bitW b) r)⟩,
    ⟨0x1C, 0xFE, fun b => .imm (immSize (bitW b) c.os) (.sbbAccImm (bitW b))⟩,
    ⟨0x28, 0xFE, fun b => .modrm fun r => some fun rm => .subRmR (bitW b) rm r⟩,
    ⟨0x2A, 0xFE, fun b => .modrm fun r => some (.subRRm (bitW b) r)⟩,
    ⟨0x2C, 0xFE, fun b => .imm (immSize (bitW b) c.os) (.subAccImm (bitW b))⟩,
    ⟨0x30, 0xFE, fun b => .modrm fun r => some fun rm => .xorRmR (bitW b) rm r⟩,
    ⟨0x32, 0xFE, fun b => .modrm fun r => some (.xorRRm (bitW b) r)⟩,
    ⟨0x34, 0xFE, fun b => .imm (immSize (bitW b) c.os) (.xorAccImm (bitW b))⟩,
    ⟨0x80, 0xFC, fun b => .modrmImm (immSize (!bitS b && bitW b) c.os) (group80 (bitS b) (bitW b))⟩,
    ⟨0x84, 0xFE, fun b => .modrm fun r => some fun rm => .testRmR (bitW b) rm r⟩,
    ⟨0x86, 0xFE, fun b => .modrm fun r => some fun rm => .xchgRmR (bitW b) rm r⟩,
    ⟨0x90, 0xF8, fun b => .plain (.xchgAccR (RegNum.ofBits (fieldRm b)))⟩,
    ⟨0xA8, 0xFE, fun b => .imm (immSize (bitW b) c.os) (.testAccImm (bitW b))⟩,
    ⟨0xF6, 0xFE, fun b => .modrmImm (immSize (bitW b) c.os) (only .n0 (.testRmImm (bitW b)))⟩ ]

/-- The other one-byte opcodes (R127). -/
def rowsOther (c : Ctx) : List OpRow :=
  [ ⟨0x9B, 0xFF, fun _ => .plain .wait⟩,
    ⟨0x9E, 0xFF, fun _ => .plain .sahf⟩,
    ⟨0xAA, 0xFF, fun _ => .plain .stosb⟩,
    ⟨0xAB, 0xFF, fun _ => .plain (bySize c .stosw .stosd)⟩,
    ⟨0xAE, 0xFF, fun _ => .plain .scasb⟩,
    ⟨0xAF, 0xFF, fun _ => .plain (bySize c .scasw .scasd)⟩,
    ⟨0xC0, 0xFE, fun b => .modrmI8 (groupC0 (bitW b))⟩,
    ⟨0xC2, 0xFF, fun _ => .imm16 .retNearImm⟩,
    ⟨0xC3, 0xFF, fun _ => .plain .retNear⟩,
    ⟨0xCA, 0xFF, fun _ => .imm16 .retFarImm⟩,
    ⟨0xCB, 0xFF, fun _ => .plain .retFar⟩,
    ⟨0xD0, 0xFE, fun b => .modrm (groupD0 (bitW b))⟩,
    ⟨0xD2, 0xFE, fun b => .modrm (groupD2 (bitW b))⟩,
    ⟨0xD7, 0xFF, fun _ => .plain .xlatb⟩,
    ⟨0xF9, 0xFF, fun _ => .plain .stc⟩,
    ⟨0xFB, 0xFF, fun _ => .plain .sti⟩,
    ⟨0xFD, 0xFF, fun _ => .plain .std⟩ ]

/-- Every one-byte opcode and prefix byte (R111, R127). -/
def rows1 (c : Ctx) : List OpRow := rowsPfx ++ rowsStack c ++ rowsArith c ++ rowsOther c

/-- The opcodes after 0Fh (R128). -/
def rows2 : List OpRow :=
  [ ⟨0x00, 0xFF, fun _ => .modrm group0F00⟩,
    ⟨0x01, 0xFF, fun _ => .modrm group0F01⟩,
    ⟨0x90, 0xFF, fun _ => .modrm (only .n0 .seto)⟩,
    ⟨0x91, 0xFF, fun _ => .modrm (only .n0 .setno)⟩,
    ⟨0x92, 0xFF, fun _ => .modrm (only .n0 .setb)⟩,
    ⟨0x93, 0xFF, fun _ => .modrm (only .n0 .setnb)⟩,
    ⟨0x94, 0xFF, fun _ => .modrm (only .n0 .sete)⟩,
    ⟨0x95, 0xFF, fun _ => .modrm (only .n0 .setne)⟩,
    ⟨0x96, 0xFF, fun _ => .modrm (only .n0 .setbe)⟩,
    ⟨0x97, 0xFF, fun _ => .modrm (only .n0 .setnbe)⟩,
    ⟨0x98, 0xFF, fun _ => .modrm (only .n0 .sets)⟩,
    ⟨0x99, 0xFF, fun _ => .modrm (only .n0 .setns)⟩,
    ⟨0x9A, 0xFF, fun _ => .modrm (only .n0 .setp)⟩,
    ⟨0x9B, 0xFF, fun _ => .modrm (only .n0 .setnp)⟩,
    ⟨0x9C, 0xFF, fun _ => .modrm (only .n0 .setl)⟩,
    ⟨0x9D, 0xFF, fun _ => .modrm (only .n0 .setnl)⟩,
    ⟨0x9E, 0xFF, fun _ => .modrm (only .n0 .setle)⟩,
    ⟨0x9F, 0xFF, fun _ => .modrm (only .n0 .setnle)⟩,
    ⟨0xA0, 0xFF, fun _ => .plain .pushFs⟩,
    ⟨0xA1, 0xFF, fun _ => .plain .popFs⟩,
    ⟨0xA8, 0xFF, fun _ => .plain .pushGs⟩,
    ⟨0xA9, 0xFF, fun _ => .plain .popGs⟩,
    ⟨0xA4, 0xFF, fun _ => .modrmI8 fun r => some fun rm n => .shldImm rm r n⟩,
    ⟨0xA5, 0xFF, fun _ => .modrm fun r => some fun rm => .shldCl rm r⟩,
    ⟨0xAC, 0xFF, fun _ => .modrmI8 fun r => some fun rm n => .shrdImm rm r n⟩,
    ⟨0xAD, 0xFF, fun _ => .modrm fun r => some fun rm => .shrdCl rm r⟩ ]

/-- The form of a byte in a list of rows. -/
def lookupForm (rows : List OpRow) (b : Byte) : Option Form :=
  (rows.find? (fun r => r.hits b)).map (fun r => r.form b)

/-- The operands a form asks for, and the instruction (R110). The extension is judged on the ModRM byte alone: a slot the
source leaves unassigned is rejected whatever follows. -/
def takeForm (c : Ctx) (f : Form) (bs : List Byte) : Except DecErr (Instr × List Byte) :=
  match f with
  | .plain i => .ok (i, bs)
  | .modrm f => do
    let (b, _) ← take8 bs
    match f (RegNum.ofBits (fieldReg b)) with
    | none => .error .notInSource
    | some g =>
      let (_, rm, rest) ← takeModRM c.as bs
      return (g rm, rest)
  | .modrmI8 f => do
    let (b, _) ← take8 bs
    match f (RegNum.ofBits (fieldReg b)) with
    | none => .error .notInSource
    | some g =>
      let (_, rm, rest) ← takeModRM c.as bs
      let (v, rest) ← take8 rest
      return (g rm v, rest)
  | .modrmImm k f => do
    let (b, _) ← take8 bs
    match f (RegNum.ofBits (fieldReg b)) with
    | none => .error .notInSource
    | some g =>
      let (_, rm, rest) ← takeModRM c.as bs
      let (v, rest) ← takeImm k rest
      return (g rm v, rest)
  | .imm8 f => do
    let (v, rest) ← take8 bs
    return (f v, rest)
  | .imm16 f => do
    let (v, rest) ← take16 bs
    return (f v, rest)
  | .imm k f => do
    let (v, rest) ← takeImm k bs
    return (f v, rest)

/-- The form a byte selects in a list of rows, and then its operands. -/
def takeRow (c : Ctx) (rows : List OpRow) (b : Byte) (bs : List Byte) : Except DecErr (Instr × List Byte) :=
  match lookupForm rows b with
  | none => .error .notInSource
  | some f => takeForm c f bs

/-- Decode one item, a prefix byte or an instruction from its opcode on, and give the bytes after it (R110, R112). -/
def decodeItem (c : Ctx) (bs : List Byte) : Except DecErr (Instr × List Byte) := do
  let (b, rest) ← take8 bs
  if b == 0x0F then
    let (b2, rest) ← take8 rest
    takeRow c rows2 b2 rest
  else
    takeRow c (rows1 c) b rest

/-! ## The encoder -/

/-- The bytes of a 16-bit displacement form. -/
def Disp16.bytes : Disp16 → List Byte
  | .none => []
  | .d8 v => [v]
  | .d16 v => bytes16 v

/-- The `mod` field of a 16-bit displacement form (R116). -/
def Disp16.md : Disp16 → BitVec 2
  | .none => 0
  | .d8 _ => 1
  | .d16 _ => 2

/-- The bytes of a 32-bit displacement form. -/
def Disp32.bytes : Disp32 → List Byte
  | .none => []
  | .d8 v => [v]
  | .d32 v => bytes32 v

/-- The `mod` field of a 32-bit displacement form (R114). -/
def Disp32.md : Disp32 → BitVec 2
  | .none => 0
  | .d8 _ => 1
  | .d32 _ => 2

/-- ModRM, SIB and displacement of a memory operand, with `reg` in bits 5:3 of ModRM (R113–R116). -/
def Mem.encode (reg : RegNum) : Mem → List Byte
  | .base16 b d => joinFields d.md reg.toBits b.toBits :: d.bytes
  | .abs16 d => joinFields 0 reg.toBits 6 :: bytes16 d
  | .base32 b d => joinFields d.md reg.toBits b.toBits :: d.bytes
  | .abs32 d => joinFields 0 reg.toBits 5 :: bytes32 d
  | .sib ss i b d => joinFields d.md reg.toBits 4 :: joinFields ss.toBits i.toBits b.toBits :: d.bytes
  | .sibAbs ss i d => joinFields 0 reg.toBits 4 :: joinFields ss.toBits i.toBits 5 :: bytes32 d

/-- ModRM and what follows it, of an r/m operand (R113). -/
def RM.encode (reg : RegNum) : RM → List Byte
  | .reg r => [joinFields 3 reg.toBits r.toBits]
  | .mem m => m.encode reg

/-- The bytes of an immediate. -/
def Imm.bytes : Imm → List Byte
  | .i8 v => [v]
  | .i16 v => bytes16 v
  | .i32 v => bytes32 v

/-- An opcode byte with its `w` bit (R119). -/
def opW (b : Byte) (w : Bool) : Byte := b ||| (if w then 1 else 0)

/-- The opcode byte `100000sw` (R121). -/
def opSW (s w : Bool) : Byte := opW (0x80 ||| (if s then 2 else 0)) w

/-- A short-form opcode byte with its register number (R118). -/
def opReg (b : Byte) (r : RegNum) : Byte := b ||| r.toBits.setWidth 8

/-- The bytes of an instruction, from its opcode on (R126–R128); of a prefix row, its byte (R111). -/
def encode : Instr → List Byte
  | .popRm rm => 0x8F :: rm.encode .n0
  | .popR r => [opReg 0x58 r]
  | .popEs => [0x07]
  | .popSs => [0x17]
  | .popDs => [0x1F]
  | .popFs => [0x0F, 0xA1]
  | .popGs => [0x0F, 0xA9]
  | .popa => [0x61]
  | .popad => [0x61]
  | .popf => [0x9D]
  | .popfd => [0x9D]
  | .pushRm rm => 0xFF :: rm.encode .n6
  | .pushR r => [opReg 0x50 r]
  | .pushFs => [0x0F, 0xA0]
  | .pushGs => [0x0F, 0xA8]
  | .pushEs => [0x06]
  | .pushCs => [0x0E]
  | .pushSs => [0x16]
  | .pushDs => [0x1E]
  | .pushImm imm => 0x68 :: imm.bytes
  | .pushImm8 v => [0x6A, v]
  | .pusha => [0x60]
  | .pushad => [0x60]
  | .pushf => [0x9C]
  | .pushfd => [0x9C]
  | .rol1 w rm => opW 0xD0 w :: rm.encode .n0
  | .rolCl w rm => opW 0xD2 w :: rm.encode .n0
  | .rolImm w rm n => opW 0xC0 w :: (rm.encode .n0 ++ [n])
  | .ror1 w rm => opW 0xD0 w :: rm.encode .n1
  | .rorCl w rm => opW 0xD2 w :: rm.encode .n1
  | .rorImm w rm n => opW 0xC0 w :: (rm.encode .n1 ++ [n])
  | .rcl1 w rm => opW 0xD0 w :: rm.encode .n2
  | .rclCl w rm => opW 0xD2 w :: rm.encode .n2
  | .rclImm w rm n => opW 0xC0 w :: (rm.encode .n2 ++ [n])
  | .rcr1 w rm => opW 0xD0 w :: rm.encode .n3
  | .rcrCl w rm => opW 0xD2 w :: rm.encode .n3
  | .rcrImm w rm n => opW 0xC0 w :: (rm.encode .n3 ++ [n])
  | .shl1 w rm => opW 0xD0 w :: rm.encode .n4
  | .shlCl w rm => opW 0xD2 w :: rm.encode .n4
  | .shlImm w rm n => opW 0xC0 w :: (rm.encode .n4 ++ [n])
  | .shr1 w rm => opW 0xD0 w :: rm.encode .n5
  | .shrCl w rm => opW 0xD2 w :: rm.encode .n5
  | .shrImm w rm n => opW 0xC0 w :: (rm.encode .n5 ++ [n])
  | .sar1 w rm => opW 0xD0 w :: rm.encode .n7
  | .sarCl w rm => opW 0xD2 w :: rm.encode .n7
  | .sarImm w rm n => opW 0xC0 w :: (rm.encode .n7 ++ [n])
  | .shldImm rm r n => 0x0F :: 0xA4 :: (rm.encode r ++ [n])
  | .shldCl rm r => 0x0F :: 0xA5 :: rm.encode r
  | .shrdImm rm r n => 0x0F :: 0xAC :: (rm.encode r ++ [n])
  | .shrdCl rm r => 0x0F :: 0xAD :: rm.encode r
  | .retNear => [0xC3]
  | .retNearImm v => 0xC2 :: bytes16 v
  | .retFar => [0xCB]
  | .retFarImm v => 0xCA :: bytes16 v
  | .sahf => [0x9E]
  | .seto rm => 0x0F :: 0x90 :: rm.encode .n0
  | .setno rm => 0x0F :: 0x91 :: rm.encode .n0
  | .setb rm => 0x0F :: 0x92 :: rm.encode .n0
  | .setnb rm => 0x0F :: 0x93 :: rm.encode .n0
  | .sete rm => 0x0F :: 0x94 :: rm.encode .n0
  | .setne rm => 0x0F :: 0x95 :: rm.encode .n0
  | .setbe rm => 0x0F :: 0x96 :: rm.encode .n0
  | .setnbe rm => 0x0F :: 0x97 :: rm.encode .n0
  | .sets rm => 0x0F :: 0x98 :: rm.encode .n0
  | .setns rm => 0x0F :: 0x99 :: rm.encode .n0
  | .setp rm => 0x0F :: 0x9A :: rm.encode .n0
  | .setnp rm => 0x0F :: 0x9B :: rm.encode .n0
  | .setl rm => 0x0F :: 0x9C :: rm.encode .n0
  | .setnl rm => 0x0F :: 0x9D :: rm.encode .n0
  | .setle rm => 0x0F :: 0x9E :: rm.encode .n0
  | .setnle rm => 0x0F :: 0x9F :: rm.encode .n0
  | .stc => [0xF9]
  | .std => [0xFD]
  | .sti => [0xFB]
  | .sbbRmR w rm r => opW 0x18 w :: rm.encode r
  | .sbbRRm w r rm => opW 0x1A w :: rm.encode r
  | .sbbRmImm s w rm imm => opSW s w :: (rm.encode .n3 ++ imm.bytes)
  | .sbbAccImm w imm => opW 0x1C w :: imm.bytes
  | .testRmR w rm r => opW 0x84 w :: rm.encode r
  | .testRmImm w rm imm => opW 0xF6 w :: (rm.encode .n0 ++ imm.bytes)
  | .testAccImm w imm => opW 0xA8 w :: imm.bytes
  | .subRmR w rm r => opW 0x28 w :: rm.encode r
  | .subRRm w r rm => opW 0x2A w :: rm.encode r
  | .subRmImm s w rm imm => opSW s w :: (rm.encode .n5 ++ imm.bytes)
  | .subAccImm w imm => opW 0x2C w :: imm.bytes
  | .xorRmR w rm r => opW 0x30 w :: rm.encode r
  | .xorRRm w r rm => opW 0x32 w :: rm.encode r
  | .xorRmImm s w rm imm => opSW s w :: (rm.encode .n6 ++ imm.bytes)
  | .xorAccImm w imm => opW 0x34 w :: imm.bytes
  | .scasb => [0xAE]
  | .scasw => [0xAF]
  | .scasd => [0xAF]
  | .stosb => [0xAA]
  | .stosw => [0xAB]
  | .stosd => [0xAB]
  | .repPfx => [0xF3]
  | .repnePfx => [0xF2]
  | .sgdt rm => 0x0F :: 0x01 :: rm.encode .n0
  | .sidt rm => 0x0F :: 0x01 :: rm.encode .n1
  | .sldt rm => 0x0F :: 0x00 :: rm.encode .n0
  | .smsw rm => 0x0F :: 0x01 :: rm.encode .n4
  | .str rm => 0x0F :: 0x00 :: rm.encode .n1
  | .verr rm => 0x0F :: 0x00 :: rm.encode .n4
  | .verw rm => 0x0F :: 0x00 :: rm.encode .n5
  | .wait => [0x9B]
  | .xchgRmR w rm r => opW 0x86 w :: rm.encode r
  | .xchgAccR r => [opReg 0x90 r]
  | .xlatb => [0xD7]
  | .opSizePfx => [0x66]
  | .addrSizePfx => [0x67]
  | .csPfx => [0x2E]
  | .ssPfx => [0x36]
  | .dsPfx => [0x3E]
  | .esPfx => [0x26]
  | .fsPfx => [0x64]
  | .gsPfx => [0x65]
  | .lockPfx => [0xF0]

/-! ## The host's reading of the opcode table -/

/-- The longest instruction, in bytes (R125). -/
def maxLength : Nat := 15

/-- `n` bytes of a number, least significant first. -/
def natBytes : Nat → Nat → List Byte
  | 0, _ => []
  | n + 1, v => BitVec.ofNat 8 v :: natBytes n (v / 256)

/-- The instruction bytes the host's `(nbits, w)` stands for: `w` in its `nbits` bits, zeros after it. -/
def tableBytes (nbits w : Nat) : List Byte := natBytes maxLength (w % 2 ^ nbits)

/-- What the decoder reads from a table word, with the size attributes of the machine after reset, 16 and 16
(R124: real mode). -/
def decodeTableWord (nbits w : Nat) : Option Instr :=
  match decodeItem ⟨.s16, .s16⟩ (tableBytes nbits w) with
  | .ok (i, _) => some i
  | .error _ => none

end Sys2Proof
end

