-- ==== Sys2Proof/Machine/Fetch.lean ====
section
/-! DEFINITION. Between two instructions: the inputs of the step (10_state R51, R53; 70 R451), the interrupt boundary
(60_exceptions R421–R423), fetching and decoding the item at EIP (30_encoding R110; 10_state R27), and placing an
instruction where the step fetches it. -/

namespace Sys2Proof.Machine

/-- The step samples its inputs: the pins, and the stores the coprocessor issues meanwhile; with no sample left the pins keep
their level (log 18). -/
def State.sample (s : State) : State :=
  match s.inputs with
  | [] => s
  | i :: rest => { s with pins := i.pins, inputs := rest, coproc := issueStores s.coproc i.stores }

/-- An external interrupt is taken at this boundary: one is requested, IF is 1, the inhibit is 0 (R421), and the free choice
of R423 falls on it (log 19). -/
def State.interrupted (s : State) : Bool :=
  s.pins.intr && flag s.eflags .fi && !s.inhibit && Config.drawBit s.draws .interrupt

/-- The byte at an offset of the code segment, checked against its limit, walked and fetched (10_state R27; 60 R408; log 25).
DESIGN CHOICE (log 44): the page walk of a fetch is of kind read; 20_memory R78 has only read and write and says of neither
that a fetch is one. -/
def State.codeByte (s : State) (off : Nat) : Res Byte := do
  let inside := match s.mode with
    | .prot => s.segs.cs.cache.inLimit off 1
    | _ => decide (off ≤ 0xFFFF)
  stopIf (!inside) (raise .gp 0)
  let p ← s.pageWalk (s.linear .cs off) false
  s.populatedAt p
  return s.peekCode p

/-- Up to `n` bytes from an offset of the code segment, and what stops the fetch after them. The offset does not wrap, at 2^16
(DEDUCED) or at 2^32 (DESIGN CHOICE): a byte beyond is outside the segment (log 31). -/
def State.codeBytes (s : State) (off : Nat) : Nat → List Byte × Stop
  | 0 => ([], .refuse .tooLong)
  | n + 1 =>
    match s.codeByte off with
    | .error e => ([], e)
    | .ok b =>
      let (bs, e) := s.codeBytes (off + 1) n
      (b :: bs, e)

/-- The size attributes under which the item is decoded (30_encoding R124). -/
def State.ctx (s : State) : Ctx := { os := s.os, as := s.as }

/-- The next item of the instruction, and its length: an instruction has at most 15 bytes (R125). -/
def State.fetchItem (s : State) : Res (Instr × Nat) :=
  let (bs, stop) := s.codeBytes (s.eip.toNat + s.cur.len) (maxLength - s.cur.len)
  match decodeItem s.ctx bs with
  | .ok (i, rest) => .ok (i, bs.length - rest.length)
  | .error .truncated => .error stop
  | .error .notInSource => refuse .notInSource

/-- EIP moved by `n` bytes: modulo 2^16 in a code segment whose default size is 16 (10_state R27). -/
def State.eipPlus (s : State) (n : Nat) : Dword :=
  let t := s.eip + BitVec.ofNat 32 n
  match s.defaultSize with
  | .s32 => t
  | .s16 => (t.setWidth 16).setWidth 32

/-- The state in which an instruction of `len` bytes, after its prefixes, is executed: `next` is known (00_scope R7). -/
def State.begin (s : State) (len : Nat) : State :=
  { s with cur := { s.cur with next := s.eipPlus (s.cur.len + len) } }

/-- One byte put where the step fetches the `i`-th byte of its next instruction; nothing stale or pending is left there. -/
def State.placeByte (s : State) (i : Nat) (b : Byte) : State :=
  match s.pageWalk (s.linear .cs (s.eip.toNat + i)) false with
  | .error _ => s
  | .ok p =>
    { s with
      mem := Memory.set s.mem p b
      stale := s.stale.filter (fun c => c.1 != p)
      coproc := s.coproc.filter (fun c => c.addr != p) }

/-- Bytes put where the step fetches its next instruction. -/
def State.placeBytes (s : State) : Nat → List Byte → State
  | _, [] => s
  | i, b :: rest => (s.placeByte i b).placeBytes (i + 1) rest

end Sys2Proof.Machine
end

