-- ==== Sys2Proof/Machine/Step.lean ====
section
/-! DEFINITION. One step of the machine: sample the inputs, refuse single stepping, take an interrupt at the boundary, or run
one instruction with its prefixes (00_scope R8). -/

namespace Sys2Proof.Machine

/-- Run the items of one instruction: prefix bytes one after another, then the instruction they belong to. -/
def runItems : Nat → State → Host.Outcome State Fault Refusal
  | 0, _ => .refused .tooLong
  | fuel + 1, s =>
    match s.fetchItem with
    | .error e => stopped s e
    | .ok (i, len) =>
      if isPfx i then
        match exec i s with
        | .next t => runItems fuel t
        | o => o
      else
        match prefixesFit s.cur i with
        | .error e => stopped s e
        | .ok () => exec i (s.begin len)

/-- One step of a sampled state: refused with TF = 1 (93 F12; log 7), an interrupt taken (60 R423), or one instruction, of at
most fifteen items (30_encoding R125). -/
def stepSampled (s : State) : Host.Outcome State Fault Refusal :=
  if flag s.eflags .tf then .refused .singleStep
  else if s.interrupted then .fault (.interrupt s.eip)
  else
    match runItems 16 { s with cur := Cur.idle } with
    | .next t => .next { t with draws := t.draws + 1 }
    | o => o

/-- One step (00_scope R8). -/
def step (s : State) : Host.Outcome State Fault Refusal := stepSampled s.sample

/-- The instruction of a table word placed where the step fetches its next instruction (log 12). -/
def State.withFetchWord (s : State) (nbits w : Nat) : State := s.placeBytes 0 (tableBytes nbits w)

end Sys2Proof.Machine
end

