-- ==== Sys2Proof/Laws/PerInstr.lean ====
section
/-! SUPPORT. Statements made instruction by instruction: every encoding has from one to eleven bytes (30_encoding R110, R125). -/

namespace Sys2Proof.Laws

/-- ModRM, SIB and displacement take one to six bytes. -/
theorem rm_encode_length (reg : RegNum) (rm : RM) :
    1 ≤ (rm.encode reg).length ∧ (rm.encode reg).length ≤ 6 := by
  cases rm with
  | reg r => simp [RM.encode]
  | mem m =>
    cases m with
    | base16 b d => cases d <;> simp [RM.encode, Mem.encode, Disp16.bytes, bytes16]
    | abs16 d => simp [RM.encode, Mem.encode, bytes16]
    | base32 b d => cases d <;> simp [RM.encode, Mem.encode, Disp32.bytes, bytes32]
    | abs32 d => simp [RM.encode, Mem.encode, bytes32]
    | sib ss i b d => cases d <;> simp [RM.encode, Mem.encode, Disp32.bytes, bytes32]
    | sibAbs ss i d => simp [RM.encode, Mem.encode, bytes32]

/-- An immediate takes one to four bytes. -/
theorem imm_bytes_length (i : Imm) : 1 ≤ i.bytes.length ∧ i.bytes.length ≤ 4 := by
  cases i <;> simp [Imm.bytes, bytes16, bytes32]

namespace EncodeLength

/-- Where an instruction has an encoding, it has one to eleven bytes. -/
def Statement (i : Instr) : Prop :=
  ∀ c : Ctx, WellFormed c i = true → 1 ≤ (encode i).length ∧ (encode i).length ≤ 11

/-- An encoding of a fixed length. -/
theorem of_length {i : Instr} (k : Fin 11) (h : (encode i).length = k.1 + 1) : Statement i := by
  intro _ _; have := k.2; omega

/-- An opcode and an r/m operand. -/
theorem of_rm {i : Instr} (reg : RegNum) (rm : RM) (k : Fin 2) (h : (encode i).length = (rm.encode reg).length + (k.1 + 1)) :
    Statement i := by
  intro _ _; have := rm_encode_length reg rm; have := k.2; omega

/-- An opcode, an r/m operand and a byte. -/
theorem of_rm_byte {i : Instr} (reg : RegNum) (rm : RM) (n : Byte) (k : Fin 2)
    (h : (encode i).length = (rm.encode reg ++ [n]).length + (k.1 + 1)) : Statement i := by
  intro _ _; have := rm_encode_length reg rm; have := k.2; simp at h; omega

/-- An opcode, an r/m operand and an immediate. -/
theorem of_rm_imm {i : Instr} (reg : RegNum) (rm : RM) (imm : Imm)
    (h : (encode i).length = (rm.encode reg ++ imm.bytes).length + 1) : Statement i := by
  intro _ _; have := rm_encode_length reg rm; have := imm_bytes_length imm; simp at h; omega

/-- An opcode and an immediate. -/
theorem of_imm {i : Instr} (imm : Imm) (h : (encode i).length = imm.bytes.length + 1) : Statement i := by
  intro _ _; have := imm_bytes_length imm; omega

theorem popRm (rm : RM) : Statement (.popRm rm) := of_rm .n0 rm 0 rfl
theorem popR (r : RegNum) : Statement (.popR r) := of_length 0 rfl
theorem popEs : Statement .popEs := of_length 0 rfl
theorem popSs : Statement .popSs := of_length 0 rfl
theorem popDs : Statement .popDs := of_length 0 rfl
theorem popFs : Statement .popFs := of_length 1 rfl
theorem popGs : Statement .popGs := of_length 1 rfl
theorem popa : Statement .popa := of_length 0 rfl
theorem popad : Statement .popad := of_length 0 rfl
theorem popf : Statement .popf := of_length 0 rfl
theorem popfd : Statement .popfd := of_length 0 rfl
theorem pushRm (rm : RM) : Statement (.pushRm rm) := of_rm .n6 rm 0 rfl
theorem pushR (r : RegNum) : Statement (.pushR r) := of_length 0 rfl
theorem pushFs : Statement .pushFs := of_length 1 rfl
theorem pushGs : Statement .pushGs := of_length 1 rfl
theorem pushEs : Statement .pushEs := of_length 0 rfl
theorem pushCs : Statement .pushCs := of_length 0 rfl
theorem pushSs : Statement .pushSs := of_length 0 rfl
theorem pushDs : Statement .pushDs := of_length 0 rfl
theorem pushImm (imm : Imm) : Statement (.pushImm imm) := of_imm imm rfl
theorem pushImm8 (imm : Byte) : Statement (.pushImm8 imm) := of_length 1 rfl
theorem pusha : Statement .pusha := of_length 0 rfl
theorem pushad : Statement .pushad := of_length 0 rfl
theorem pushf : Statement .pushf := of_length 0 rfl
theorem pushfd : Statement .pushfd := of_length 0 rfl
theorem rol1 (w : Bool) (rm : RM) : Statement (.rol1 w rm) := of_rm .n0 rm 0 rfl
theorem rolCl (w : Bool) (rm : RM) : Statement (.rolCl w rm) := of_rm .n0 rm 0 rfl
theorem rolImm (w : Bool) (rm : RM) (n : Byte) : Statement (.rolImm w rm n) := of_rm_byte .n0 rm n 0 rfl
theorem ror1 (w : Bool) (rm : RM) : Statement (.ror1 w rm) := of_rm .n1 rm 0 rfl
theorem rorCl (w : Bool) (rm : RM) : Statement (.rorCl w rm) := of_rm .n1 rm 0 rfl
theorem rorImm (w : Bool) (rm : RM) (n : Byte) : Statement (.rorImm w rm n) := of_rm_byte .n1 rm n 0 rfl
theorem rcl1 (w : Bool) (rm : RM) : Statement (.rcl1 w rm) := of_rm .n2 rm 0 rfl
theorem rclCl (w : Bool) (rm : RM) : Statement (.rclCl w rm) := of_rm .n2 rm 0 rfl
theorem rclImm (w : Bool) (rm : RM) (n : Byte) : Statement (.rclImm w rm n) := of_rm_byte .n2 rm n 0 rfl
theorem rcr1 (w : Bool) (rm : RM) : Statement (.rcr1 w rm) := of_rm .n3 rm 0 rfl
theorem rcrCl (w : Bool) (rm : RM) : Statement (.rcrCl w rm) := of_rm .n3 rm 0 rfl
theorem rcrImm (w : Bool) (rm : RM) (n : Byte) : Statement (.rcrImm w rm n) := of_rm_byte .n3 rm n 0 rfl
theorem shl1 (w : Bool) (rm : RM) : Statement (.shl1 w rm) := of_rm .n4 rm 0 rfl
theorem shlCl (w : Bool) (rm : RM) : Statement (.shlCl w rm) := of_rm .n4 rm 0 rfl
theorem shlImm (w : Bool) (rm : RM) (n : Byte) : Statement (.shlImm w rm n) := of_rm_byte .n4 rm n 0 rfl
theorem shr1 (w : Bool) (rm : RM) : Statement (.shr1 w rm) := of_rm .n5 rm 0 rfl
theorem shrCl (w : Bool) (rm : RM) : Statement (.shrCl w rm) := of_rm .n5 rm 0 rfl
theorem shrImm (w : Bool) (rm : RM) (n : Byte) : Statement (.shrImm w rm n) := of_rm_byte .n5 rm n 0 rfl
theorem sar1 (w : Bool) (rm : RM) : Statement (.sar1 w rm) := of_rm .n7 rm 0 rfl
theorem sarCl (w : Bool) (rm : RM) : Statement (.sarCl w rm) := of_rm .n7 rm 0 rfl
theorem sarImm (w : Bool) (rm : RM) (n : Byte) : Statement (.sarImm w rm n) := of_rm_byte .n7 rm n 0 rfl
theorem shldImm (rm : RM) (r : RegNum) (n : Byte) : Statement (.shldImm rm r n) := of_rm_byte r rm n 1 rfl
theorem shldCl (rm : RM) (r : RegNum) : Statement (.shldCl rm r) := of_rm r rm 1 rfl
theorem shrdImm (rm : RM) (r : RegNum) (n : Byte) : Statement (.shrdImm rm r n) := of_rm_byte r rm n 1 rfl
theorem shrdCl (rm : RM) (r : RegNum) : Statement (.shrdCl rm r) := of_rm r rm 1 rfl
theorem retNear : Statement .retNear := of_length 0 rfl
theorem retNearImm (imm : BitVec 16) : Statement (.retNearImm imm) := of_length 2 rfl
theorem retFar : Statement .retFar := of_length 0 rfl
theorem retFarImm (imm : BitVec 16) : Statement (.retFarImm imm) := of_length 2 rfl
theorem sahf : Statement .sahf := of_length 0 rfl
theorem seto (rm : RM) : Statement (.seto rm) := of_rm .n0 rm 1 rfl
theorem setno (rm : RM) : Statement (.setno rm) := of_rm .n0 rm 1 rfl
theorem setb (rm : RM) : Statement (.setb rm) := of_rm .n0 rm 1 rfl
theorem setnb (rm : RM) : Statement (.setnb rm) := of_rm .n0 rm 1 rfl
theorem sete (rm : RM) : Statement (.sete rm) := of_rm .n0 rm 1 rfl
theorem setne (rm : RM) : Statement (.setne rm) := of_rm .n0 rm 1 rfl
theorem setbe (rm : RM) : Statement (.setbe rm) := of_rm .n0 rm 1 rfl
theorem setnbe (rm : RM) : Statement (.setnbe rm) := of_rm .n0 rm 1 rfl
theorem sets (rm : RM) : Statement (.sets rm) := of_rm .n0 rm 1 rfl
theorem setns (rm : RM) : Statement (.setns rm) := of_rm .n0 rm 1 rfl
theorem setp (rm : RM) : Statement (.setp rm) := of_rm .n0 rm 1 rfl
theorem setnp (rm : RM) : Statement (.setnp rm) := of_rm .n0 rm 1 rfl
theorem setl (rm : RM) : Statement (.setl rm) := of_rm .n0 rm 1 rfl
theorem setnl (rm : RM) : Statement (.setnl rm) := of_rm .n0 rm 1 rfl
theorem setle (rm : RM) : Statement (.setle rm) := of_rm .n0 rm 1 rfl
theorem setnle (rm : RM) : Statement (.setnle rm) := of_rm .n0 rm 1 rfl
theorem stc : Statement .stc := of_length 0 rfl
theorem std : Statement .std := of_length 0 rfl
theorem sti : Statement .sti := of_length 0 rfl
theorem sbbRmR (w : Bool) (rm : RM) (r : RegNum) : Statement (.sbbRmR w rm r) := of_rm r rm 0 rfl
theorem sbbRRm (w : Bool) (r : RegNum) (rm : RM) : Statement (.sbbRRm w r rm) := of_rm r rm 0 rfl
theorem sbbRmImm (s : Bool) (w : Bool) (rm : RM) (imm : Imm) : Statement (.sbbRmImm s w rm imm) := of_rm_imm .n3 rm imm rfl
theorem sbbAccImm (w : Bool) (imm : Imm) : Statement (.sbbAccImm w imm) := of_imm imm rfl
theorem testRmR (w : Bool) (rm : RM) (r : RegNum) : Statement (.testRmR w rm r) := of_rm r rm 0 rfl
theorem testRmImm (w : Bool) (rm : RM) (imm : Imm) : Statement (.testRmImm w rm imm) := of_rm_imm .n0 rm imm rfl
theorem testAccImm (w : Bool) (imm : Imm) : Statement (.testAccImm w imm) := of_imm imm rfl
theorem subRmR (w : Bool) (rm : RM) (r : RegNum) : Statement (.subRmR w rm r) := of_rm r rm 0 rfl
theorem subRRm (w : Bool) (r : RegNum) (rm : RM) : Statement (.subRRm w r rm) := of_rm r rm 0 rfl
theorem subRmImm (s : Bool) (w : Bool) (rm : RM) (imm : Imm) : Statement (.subRmImm s w rm imm) := of_rm_imm .n5 rm imm rfl
theorem subAccImm (w : Bool) (imm : Imm) : Statement (.subAccImm w imm) := of_imm imm rfl
theorem xorRmR (w : Bool) (rm : RM) (r : RegNum) : Statement (.xorRmR w rm r) := of_rm r rm 0 rfl
theorem xorRRm (w : Bool) (r : RegNum) (rm : RM) : Statement (.xorRRm w r rm) := of_rm r rm 0 rfl
theorem xorRmImm (s : Bool) (w : Bool) (rm : RM) (imm : Imm) : Statement (.xorRmImm s w rm imm) := of_rm_imm .n6 rm imm rfl
theorem xorAccImm (w : Bool) (imm : Imm) : Statement (.xorAccImm w imm) := of_imm imm rfl
theorem scasb : Statement .scasb := of_length 0 rfl
theorem scasw : Statement .scasw := of_length 0 rfl
theorem scasd : Statement .scasd := of_length 0 rfl
theorem stosb : Statement .stosb := of_length 0 rfl
theorem stosw : Statement .stosw := of_length 0 rfl
theorem stosd : Statement .stosd := of_length 0 rfl
theorem repPfx : Statement .repPfx := of_length 0 rfl
theorem repnePfx : Statement .repnePfx := of_length 0 rfl
theorem sgdt (rm : RM) : Statement (.sgdt rm) := of_rm .n0 rm 1 rfl
theorem sidt (rm : RM) : Statement (.sidt rm) := of_rm .n1 rm 1 rfl
theorem sldt (rm : RM) : Statement (.sldt rm) := of_rm .n0 rm 1 rfl
theorem smsw (rm : RM) : Statement (.smsw rm) := of_rm .n4 rm 1 rfl
theorem str (rm : RM) : Statement (.str rm) := of_rm .n1 rm 1 rfl
theorem verr (rm : RM) : Statement (.verr rm) := of_rm .n4 rm 1 rfl
theorem verw (rm : RM) : Statement (.verw rm) := of_rm .n5 rm 1 rfl
theorem wait : Statement .wait := of_length 0 rfl
theorem xchgRmR (w : Bool) (rm : RM) (r : RegNum) : Statement (.xchgRmR w rm r) := of_rm r rm 0 rfl
theorem xchgAccR (r : RegNum) : Statement (.xchgAccR r) := of_length 0 rfl
theorem xlatb : Statement .xlatb := of_length 0 rfl
theorem opSizePfx : Statement .opSizePfx := of_length 0 rfl
theorem addrSizePfx : Statement .addrSizePfx := of_length 0 rfl
theorem csPfx : Statement .csPfx := of_length 0 rfl
theorem ssPfx : Statement .ssPfx := of_length 0 rfl
theorem dsPfx : Statement .dsPfx := of_length 0 rfl
theorem esPfx : Statement .esPfx := of_length 0 rfl
theorem fsPfx : Statement .fsPfx := of_length 0 rfl
theorem gsPfx : Statement .gsPfx := of_length 0 rfl
theorem lockPfx : Statement .lockPfx := of_length 0 rfl

end EncodeLength

end Sys2Proof.Laws
end

