-- ==== Sys2Proof/Safety.lean ====
section
/-! DEFINITION. The words statements about the machine are made in: what a step keeps, what an operand becomes, the flags of
a result in integers, the instructions of one shape, and the invariant every step keeps. Nothing of the machine rests on this
file. -/

namespace Sys2Proof.Machine

/-! ## What an instruction keeps -/

/-- Every byte of memory outside `ps` reads as before. -/
def memKept (ps : List Nat) (s t : State) : Prop := ∀ a, a ∉ ps → Memory.get t.mem a = Memory.get s.mem a

/-- Every bit of EFLAGS but those of `fs` is as before. -/
def flagsKept (fs : List Flag) (s t : State) : Prop := ∀ i, i ∉ fs.map Flag.pos → t.eflags.getLsbD i = s.eflags.getLsbD i

/-- Every general register but those of `rs` is as before. -/
def regsKept (rs : List RegNum) (s t : State) : Prop := ∀ r, r ∉ rs → t.regs.get r = s.regs.get r

/-- The system registers and the model's surroundings are as before. -/
def systemKept (s t : State) : Prop :=
  t.cr0 = s.cr0 ∧ t.cr2 = s.cr2 ∧ t.gdtr = s.gdtr ∧ t.idtr = s.idtr ∧ t.ldtr = s.ldtr ∧ t.tr = s.tr ∧ t.pins = s.pins ∧
    t.inputs = s.inputs ∧ t.populated = s.populated ∧ t.descs = s.descs ∧ t.pages = s.pages ∧ t.draws = s.draws

/-- EIP is at the next instruction and the interrupt inhibit has ended (10_state R27, R52). -/
def completed (s t : State) : Prop := t.eip = s.cur.next ∧ t.inhibit = false ∧ t.cur = Cur.idle

/-- The six status flags. -/
def statusFlags : List Flag := [.cf, .pf, .af, .zf, .sf, .of]

/-- No register of any kind, no flag and no byte of memory has changed. -/
def nothingElse (s t : State) : Prop :=
  t.regs = s.regs ∧ t.eflags = s.eflags ∧ t.segs = s.segs ∧ memKept [] s t ∧ systemKept s t

/-! ## Operands -/

/-- The bytes of a value, the lowest address first (20_memory R81). -/
def bytesOf (w : Width) (v : BitVec w.bits) : List Byte :=
  (List.range w.bytes).map (fun i => v.extractLsb' (8 * i) 8)

/-- The old value of an operand that is modified, and the addresses its new value is stored to: none for a register. -/
def State.target (s : State) (w : Width) : RM → Res (BitVec w.bits × List Nat)
  | .reg r => .ok (s.reg w r, [])
  | .mem m => do
    let (ws, rs) ← s.accessRmw (s.memSeg m) (s.ea m).toNat w.bytes
    return (s.valueAt w rs, ws)

/-- The addresses an operand that is only written is stored to: none for a register. -/
def State.slot (s : State) (w : Width) : RM → Res (List Nat)
  | .reg _ => .ok []
  | .mem m => s.access (s.memSeg m) (s.ea m).toNat w.bytes .write

/-- The operand, and no other register or byte of memory, has become `v`. -/
def operandIs (s t : State) (w : Width) (rm : RM) (ws : List Nat) (v : BitVec w.bits) : Prop :=
  match rm with
  | .reg r => t.regs = s.regs.write w r v ∧ memKept [] s t
  | .mem _ => t.regs = s.regs ∧ ws.map (Memory.get t.mem) = bytesOf w v ∧ memKept ws s t

/-- A displacement as an integer: eight bits are signed (30_encoding R114–R116). -/
def Disp16.int : Disp16 → Int
  | .none => 0
  | .d8 v => v.toInt
  | .d16 v => v.toNat

/-- A displacement as an integer: eight bits are signed (R114, R115). -/
def Disp32.int : Disp32 → Int
  | .none => 0
  | .d8 v => v.toInt
  | .d32 v => v.toNat

/-- The effective address of a memory operand as the sum of its parts, not yet truncated (R114–R116): BX, SI and DI, BP of 16
bits at AS = 16; the base and the index times its scale at AS = 32, index number 4 being none. -/
def State.addressSum (s : State) : Mem → Int
  | .base16 b d =>
    let low := fun (i : RegNum) => (((s.regs.get i).toNat % 2 ^ 16 : Nat) : Int)
    let sum := match b with
      | .bxSi => low .n3 + low .n6
      | .bxDi => low .n3 + low .n7
      | .bpSi => low .n5 + low .n6
      | .bpDi => low .n5 + low .n7
      | .si => low .n6
      | .di => low .n7
      | .bp => low .n5
      | .bx => low .n3
    sum + Disp16.int d
  | .abs16 d => d.toNat
  | .base32 b d => (s.regs.get b).toNat + Disp32.int d
  | .abs32 d => d.toNat
  | .sib ss i b d => (s.regs.get b).toNat + scaled ss i + Disp32.int d
  | .sibAbs ss i d => scaled ss i + d.toNat
where
  /-- The index times 1, 2, 4 or 8. -/
  scaled (ss : Scale) (i : RegNum) : Nat :=
    if i = .n4 then 0 else (s.regs.get i).toNat * (match ss with
      | .x1 => 1
      | .x2 => 2
      | .x4 => 4
      | .x8 => 8)

/-- The width an effective address is truncated to: AS of the form (20_memory R72). -/
def memBits : Mem → Nat
  | .base16 _ _ | .abs16 _ => 16
  | _ => 32

/-- The base is (E)BP or ESP (20_memory R73). -/
def stackBased : Mem → Bool
  | .base16 .bpSi _ | .base16 .bpDi _ | .base16 .bp _ => true
  | .base32 .n5 _ | .base32 .n4 _ | .sib _ _ .n5 _ | .sib _ _ .n4 _ => true
  | _ => false

/-! ## Paging -/

/-- An entry of the paging table speaks of an access to `lin` at a level (20_memory R78; log 14). -/
def PageEntry.speaks (e : PageEntry) (lin : Dword) (write : Bool) (level : BitVec 2) : Prop :=
  e.first.toNat ≤ lin.toNat ∧ lin.toNat ≤ e.last.toNat ∧ (if write then e.writes else e.reads) = true ∧
    ∀ l, e.level = some l → l = level

/-- `e` is the first entry of the paging table that speaks of an access to `lin`. -/
def State.pageHas (s : State) (lin : Dword) (write : Bool) (e : PageEntry) : Prop :=
  ∃ before after, s.pages = before ++ e :: after ∧ e.speaks lin write s.cpl ∧ ∀ b ∈ before, ¬b.speaks lin write s.cpl

/-- The walk of `lin` gives the physical address `p` (R78): by the entry that speaks of it, or the identity. -/
def State.walksTo (s : State) (lin : Dword) (write : Bool) (p : Nat) : Prop :=
  (∃ e phys, s.pageHas lin write e ∧ e.answer = .mapped phys ∧ p = (phys + (lin - e.first)).toNat) ∨
    (∀ e ∈ s.pages, ¬e.speaks lin write s.cpl) ∧ p = lin.toNat

/-- The walk of `lin` faults with a code (R78). -/
def State.walkFaults (s : State) (lin : Dword) (write : Bool) (code : Word) : Prop :=
  ∃ e, s.pageHas lin write e ∧ e.answer = .fault code

/-- The `j`-th of the bytes at an offset is the first, lowest address first, whose walk faults (R84). -/
def State.firstFault (s : State) (seg : SReg) (off : Nat) (write : Bool) (j : Nat) (code : Word) : Prop :=
  s.walkFaults (s.linear seg (off + j)) write code ∧ ∀ i, i < j → ∀ c, ¬s.walkFaults (s.linear seg (off + i)) write c

/-- The stack pointer has become `top` at the stack address size: with SA = 16 only SP (20_memory R90–R92). -/
def spBecomes (s t : State) (top : Dword) : Prop :=
  t.regs.esp = match s.stackSize with
    | .s32 => top
    | .s16 => (s.regs.esp.extractLsb' 16 16 ++ top.extractLsb' 0 16 : BitVec 32)

/-- A register written at a width: the named bits hold `v`, the others of the 32-bit register are kept (10_state R24). -/
def regBecomes (s t : State) (w : Width) (r : RegNum) (v : BitVec w.bits) : Prop :=
  t.reg w r = v ∧ (w = .word → (t.regs.get r).extractLsb' 16 16 = (s.regs.get r).extractLsb' 16 16)

/-! ## Flags in integers -/

/-- The number of 1 bits among the low eight (10_state R31). -/
def onesLow8 {n : Nat} (r : BitVec n) : Nat := ((List.range 8).filter (fun i => r.getLsbD i)).length

/-- The status flags of the subtraction `a − b − c`, in integers (44_arith_logic R281). -/
def subStatus {n : Nat} (f : Dword) (a b : BitVec n) (c : Bool) : Prop :=
  let r := BitVec.ofInt n (a.toInt - b.toInt - c.toNat)
  (flag f .cf = true ↔ a.toNat < b.toNat + c.toNat) ∧
  (flag f .of = true ↔ a.toInt - b.toInt - c.toNat < -2 ^ (n - 1) ∨ 2 ^ (n - 1) ≤ a.toInt - b.toInt - c.toNat) ∧
  (flag f .sf = true ↔ r.toInt < 0) ∧
  (flag f .zf = true ↔ r = 0) ∧
  (flag f .af = true ↔ a.toNat % 16 < b.toNat % 16 + c.toNat) ∧
  (flag f .pf = true ↔ onesLow8 r % 2 = 0)

/-- SF, ZF and PF of a result. -/
def resultStatus {n : Nat} (f : Dword) (r : BitVec n) : Prop :=
  (flag f .sf = true ↔ r.toInt < 0) ∧ (flag f .zf = true ↔ r.toNat = 0) ∧ (flag f .pf = true ↔ onesLow8 r % 2 = 0)

/-- The status flags of a logical result but AF, which is free (44_arith_logic R282, R292, R303). -/
def logicStatus {n : Nat} (f : Dword) (r : BitVec n) : Prop :=
  flag f .cf = false ∧ flag f .of = false ∧ resultStatus f r

/-! ## Instructions of one shape -/

/-- The three ways to give a count (41_rotate_shift R190). -/
inductive Count where
  | one
  | cl
  | imm (n : Byte)
  deriving DecidableEq, Repr

/-- The masked count (R190). -/
def Count.value (s : State) : Count → Nat
  | .one => 1
  | .cl => (s.reg .byte .n1).toNat % 32
  | .imm n => n.toNat % 32

/-- The rotates and shifts (R190). -/
def shiftInstr (op : ShiftOp) (k : Count) (w : Bool) (rm : RM) : Instr :=
  match op, k with
  | .rol, .one => .rol1 w rm
  | .rol, .cl => .rolCl w rm
  | .rol, .imm n => .rolImm w rm n
  | .ror, .one => .ror1 w rm
  | .ror, .cl => .rorCl w rm
  | .ror, .imm n => .rorImm w rm n
  | .rcl, .one => .rcl1 w rm
  | .rcl, .cl => .rclCl w rm
  | .rcl, .imm n => .rclImm w rm n
  | .rcr, .one => .rcr1 w rm
  | .rcr, .cl => .rcrCl w rm
  | .rcr, .imm n => .rcrImm w rm n
  | .shl, .one => .shl1 w rm
  | .shl, .cl => .shlCl w rm
  | .shl, .imm n => .shlImm w rm n
  | .shr, .one => .shr1 w rm
  | .shr, .cl => .shrCl w rm
  | .shr, .imm n => .shrImm w rm n
  | .sar, .one => .sar1 w rm
  | .sar, .cl => .sarCl w rm
  | .sar, .imm n => .sarImm w rm n

/-- SETcc (43_flag_control R262). -/
def setInstr (c : Cond) (rm : RM) : Instr :=
  match c with
  | .o => .seto rm
  | .no => .setno rm
  | .b => .setb rm
  | .nb => .setnb rm
  | .e => .sete rm
  | .ne => .setne rm
  | .be => .setbe rm
  | .nbe => .setnbe rm
  | .s => .sets rm
  | .ns => .setns rm
  | .p => .setp rm
  | .np => .setnp rm
  | .l => .setl rm
  | .nl => .setnl rm
  | .le => .setle rm
  | .nle => .setnle rm

/-- The pushes of one operand (40_stack R163–R167). -/
inductive PushForm where
  | ofRm (x : RM)
  | ofReg (r : RegNum)
  | ofSeg (r : SReg)
  | ofImm (v : Imm)
  | ofImm8 (v : Byte)
  deriving DecidableEq, Repr

/-- The instruction of a push. -/
def PushForm.instr : PushForm → Instr
  | .ofRm x => .pushRm x
  | .ofReg r => .pushR r
  | .ofSeg .es => .pushEs
  | .ofSeg .cs => .pushCs
  | .ofSeg .ss => .pushSs
  | .ofSeg .ds => .pushDs
  | .ofSeg .fs => .pushFs
  | .ofSeg .gs => .pushGs
  | .ofImm v => .pushImm v
  | .ofImm8 v => .pushImm8 v

/-- What a push pushes: an operand, a selector zero-extended, an immediate sign-extended where it is shorter. -/
def PushForm.item (s : State) : PushForm → Res (BitVec s.os.width.bits)
  | .ofRm x => s.rmRead s.os.width x
  | .ofReg r => .ok (s.reg s.os.width r)
  | .ofSeg r => .ok ((s.seg r).selector.setWidth s.os.width.bits)
  | .ofImm v => .ok (Imm.value s.os.width v)
  | .ofImm8 v => .ok (v.signExtend s.os.width.bits)

/-- The four operand forms of SBB, SUB and XOR (44_arith_logic R280). -/
inductive ArithForm where
  | rmR (rm : RM) (r : RegNum)
  | rRm (r : RegNum) (rm : RM)
  | rmImm (s : Bool) (rm : RM) (imm : Imm)
  | acc (imm : Imm)
  deriving DecidableEq, Repr

/-- SUB (R293–R296). -/
def subInstr (w : Bool) : ArithForm → Instr
  | .rmR rm r => .subRmR w rm r
  | .rRm r rm => .subRRm w r rm
  | .rmImm s rm imm => .subRmImm s w rm imm
  | .acc imm => .subAccImm w imm

/-- SBB (R283–R286). -/
def sbbInstr (w : Bool) : ArithForm → Instr
  | .rmR rm r => .sbbRmR w rm r
  | .rRm r rm => .sbbRRm w r rm
  | .rmImm s rm imm => .sbbRmImm s w rm imm
  | .acc imm => .sbbAccImm w imm

/-- XOR (R298–R301). -/
def xorInstr (w : Bool) : ArithForm → Instr
  | .rmR rm r => .xorRmR w rm r
  | .rRm r rm => .xorRRm w r rm
  | .rmImm s rm imm => .xorRmImm s w rm imm
  | .acc imm => .xorAccImm w imm

/-- The destination of a form. -/
def ArithForm.dst : ArithForm → RM
  | .rmR rm _ => rm
  | .rRm r _ => .reg r
  | .rmImm _ rm _ => rm
  | .acc _ => .reg accNum

/-- The source of a form, at the width of the operation. -/
def ArithForm.src (s : State) (n : Width) : ArithForm → Res (BitVec n.bits)
  | .rmR _ r => .ok (s.reg n r)
  | .rRm _ rm => s.rmRead n rm
  | .rmImm _ _ imm => .ok (Imm.value n imm)
  | .acc imm => .ok (Imm.value n imm)

/-- The three operand forms of TEST (R288–R290). -/
inductive TestForm where
  | rmR (rm : RM) (r : RegNum)
  | rmImm (rm : RM) (imm : Imm)
  | acc (imm : Imm)
  deriving DecidableEq, Repr

/-- TEST. -/
def testInstr (w : Bool) : TestForm → Instr
  | .rmR rm r => .testRmR w rm r
  | .rmImm rm imm => .testRmImm w rm imm
  | .acc imm => .testAccImm w imm

/-- The operand TEST reads. -/
def TestForm.left : TestForm → RM
  | .rmR rm _ => rm
  | .rmImm rm _ => rm
  | .acc _ => .reg accNum

/-- The other operand. -/
def TestForm.right (s : State) (n : Width) : TestForm → BitVec n.bits
  | .rmR _ r => s.reg n r
  | .rmImm _ imm => Imm.value n imm
  | .acc imm => Imm.value n imm

/-- The pops of a segment register (40_stack R153, R154). -/
def segPops : List (Instr × SReg) :=
  [(.popEs, .es), (.popSs, .ss), (.popDs, .ds), (.popFs, .fs), (.popGs, .gs)]

/-- SCAS by width (45_string R311–R313). -/
def scasInstr : Width → Instr
  | .byte => .scasb
  | .word => .scasw
  | .dword => .scasd

/-- STOS by width (R315, R319, R320). -/
def stosInstr : Width → Instr
  | .byte => .stosb
  | .word => .stosw
  | .dword => .stosd

/-- (E)DI or (E)CX after an addition at the address size (R310, R316). -/
def movedBy (as : OSize) (old d : Dword) : Dword :=
  match as with
  | .s32 => old + d
  | .s16 => old.extractLsb' 16 16 ++ (old.extractLsb' 0 16 + d.extractLsb' 0 16)

/-- What a string instruction adds to its index (R310). -/
def stride (s : State) (w : Width) : Dword :=
  if flag s.eflags .df then - BitVec.ofNat 32 w.bytes else BitVec.ofNat 32 w.bytes

/-! ## Accesses that stop -/

/-- The `j`-th item of a push of width w reaches past offset FFFFh in real mode (40_stack R170; log 43). -/
def State.lowItem (s : State) (w : Width) (j : Nat) : Prop :=
  s.mode = .real ∧ 0xFFFF < (s.spPlus (- BitVec.ofNat 32 (w.bytes * j))).toNat + w.bytes - 1

/-- A far RET, and the bytes it releases beside its two items (42_ret R235–R237). -/
def isFarRet (i : Instr) (imm : Nat) : Prop := i = .retFar ∧ imm = 0 ∨ ∃ m, i = .retFarImm m ∧ imm = m.toNat

/-- The checks before the first read of a far RET in protected mode pass, and `x` is the CS image (R237). -/
abbrev State.farFrame (s : State) (x : BitVec s.os.width.bits) : Prop :=
  s.mode = .prot ∧ s.segs.ss.cache.inLimit (s.spPlus (BitVec.ofNat 32 s.os.width.bytes)).toNat 2 = true ∧
    s.stackRead s.os.width.bytes s.os.width = .ok x

/-- A far RET to an outer level whose whole frame lies inside the SS limit (R239 row 1). -/
abbrev State.outerFrame (s : State) (imm : Nat) (x : BitVec s.os.width.bits) : Prop :=
  s.farFrame x ∧ s.cpl < rpl (x.extractLsb' 0 16) ∧
    s.segs.ss.cache.inLimit (s.spPlus 0).toNat (4 * s.os.width.bytes + imm) = true

/-- An access that an instruction makes stops with `e`, every check and access before it passing (60_exceptions R408, R415;
20_memory R93): for each instruction and each of its accesses, in the instruction's order. -/
inductive Denied (s : State) : Instr → Stop → Prop
  /-- POP of a general register (R151, R152): the item -/
  | popReg (i : Instr) (r : RegNum) (e : Stop) : i = .popR r ∨ i = .popRm (.reg r) →
      s.stackRead 0 s.os.width = .error e → Denied s i e
  /-- POP to memory (R151): the item -/
  | popMem (m : Mem) (e : Stop) : s.stackRead 0 s.os.width = .error e → Denied s (.popRm (.mem m)) e
  /-- POP to memory: the destination -/
  | popMemStore (m : Mem) (v : BitVec s.os.width.bits) (e : Stop) : s.stackRead 0 s.os.width = .ok v →
      s.access (s.memSeg m) (s.popEa s.os.width m).toNat s.os.width.bytes .write = .error e → Denied s (.popRm (.mem m)) e
  /-- POP of a segment register (R153, R154): the item -/
  | popSeg (i : Instr) (r : SReg) (e : Stop) : (i, r) ∈ segPops → s.stackRead 0 s.os.width = .error e → Denied s i e
  /-- POPA, POPAD (R156, R157): one of the eight items -/
  | popAll (i : Instr) (w : Width) (j : Nat) (e : Stop) : (i, w) ∈ [(Instr.popa, Width.word), (Instr.popad, Width.dword)] →
      ¬(s.mode = .v86 ∧ s.iopl ≠ 3 ∧ Config.v86PopaFaults = true) → j < 8 →
      (∀ k, k < j → ∃ v, s.stackRead (w.bytes * k) w = .ok v) → s.stackRead (w.bytes * j) w = .error e → Denied s i e
  /-- POPF, POPFD (R158, R159): the item -/
  | popFlags (i : Instr) (w : Width) (e : Stop) : (i, w) ∈ [(Instr.popf, Width.word), (Instr.popfd, Width.dword)] →
      ¬(s.mode = .v86 ∧ s.iopl ≠ 3) → s.stackRead 0 w = .error e → Denied s i e
  /-- PUSH (R163–R167): the operand -/
  | pushOperand (f : PushForm) (e : Stop) : f.item s = .error e → Denied s f.instr e
  /-- PUSH: the item -/
  | pushItem (f : PushForm) (v : BitVec s.os.width.bits) (e : Stop) : f.item s = .ok v → ¬s.lowItem s.os.width 1 →
      s.access .ss (s.spPlus (- BitVec.ofNat 32 s.os.width.bytes)).toNat s.os.width.bytes .write = .error e →
      Denied s f.instr e
  /-- PUSHA, PUSHAD (R171, R172): one of the eight items -/
  | pushAll (i : Instr) (w : Width) (j : Nat) (e : Stop) :
      (i, w) ∈ [(Instr.pusha, Width.word), (Instr.pushad, Width.dword)] → j < 8 →
      (∀ k, k < j → ∃ ps,
        s.access .ss (s.spPlus (- BitVec.ofNat 32 (w.bytes * (k + 1)))).toNat w.bytes .write = .ok ps) →
      ¬s.lowItem w (j + 1) →
      s.access .ss (s.spPlus (- BitVec.ofNat 32 (w.bytes * (j + 1)))).toNat w.bytes .write = .error e → Denied s i e
  /-- PUSHF, PUSHFD (R173, R174): the item -/
  | pushFlags (i : Instr) (w : Width) (e : Stop) : (i, w) ∈ [(Instr.pushf, Width.word), (Instr.pushfd, Width.dword)] →
      ¬(s.mode = .v86 ∧ s.iopl ≠ 3) → ¬s.lowItem w 1 →
      s.access .ss (s.spPlus (- BitVec.ofNat 32 w.bytes)).toNat w.bytes .write = .error e → Denied s i e
  /-- rotates and shifts (R190): the operand -/
  | shift (op : ShiftOp) (k : Count) (w : Bool) (rm : RM) (e : Stop) : s.target (opWidth w s.os) rm = .error e →
      Denied s (shiftInstr op k w rm) e
  /-- SHLD, SHRD (R199, R200): the operand -/
  | double (i : Instr) (rm : RM) (r : RegNum) (n : Byte) (e : Stop) :
      i ∈ [Instr.shldImm rm r n, .shldCl rm r, .shrdImm rm r n, .shrdCl rm r] →
      s.target s.os.width rm = .error e → Denied s i e
  /-- SBB, SUB, XOR (R280): the source -/
  | arithSource (i : Instr) (w : Bool) (f : ArithForm) (e : Stop) : i ∈ [sbbInstr w f, subInstr w f, xorInstr w f] →
      f.src s (opWidth w s.os) = .error e → Denied s i e
  /-- SBB, SUB, XOR: the destination -/
  | arithTarget (i : Instr) (w : Bool) (f : ArithForm) (b : BitVec (opWidth w s.os).bits) (e : Stop) :
      i ∈ [sbbInstr w f, subInstr w f, xorInstr w f] → f.src s (opWidth w s.os) = .ok b →
      s.target (opWidth w s.os) f.dst = .error e → Denied s i e
  /-- TEST (R288–R290): the operand it reads -/
  | test (w : Bool) (f : TestForm) (e : Stop) : s.rmRead (opWidth w s.os) f.left = .error e → Denied s (testInstr w f) e
  /-- XCHG (R364): the operand -/
  | xchg (w : Bool) (rm : RM) (r : RegNum) (e : Stop) : s.target (opWidth w s.os) rm = .error e →
      Denied s (.xchgRmR w rm r) e
  /-- SETcc (R261): the byte -/
  | setcc (c : Cond) (rm : RM) (e : Stop) : s.slot .byte rm = .error e → Denied s (setInstr c rm) e
  /-- SCAS (R311): the element -/
  | scas (w : Width) (e : Stop) : s.cur.rep = none → s.memRead .es s.strIndex.toNat w = .error e → Denied s (scasInstr w) e
  /-- STOS (R315): the element -/
  | stos (w : Width) (e : Stop) : s.cur.rep = none → s.access .es s.strIndex.toNat w.bytes .write = .error e →
      Denied s (stosInstr w) e
  /-- SGDT, SIDT (R331, R332; R424 item 4): the two bytes of the limit -/
  | tableLimit (i : Instr) (m : Mem) (e : Stop) : i ∈ [Instr.sgdt (.mem m), .sidt (.mem m)] →
      s.access (s.memSeg m) (s.ea m).toNat 2 .write = .error e → Denied s i e
  /-- SGDT, SIDT: the four bytes of the base, its offset not wrapping (log 47) -/
  | tableBase (i : Instr) (m : Mem) (ps : List Nat) (e : Stop) : i ∈ [Instr.sgdt (.mem m), .sidt (.mem m)] →
      s.access (s.memSeg m) (s.ea m).toNat 2 .write = .ok ps →
      s.access (s.memSeg m) ((s.ea m).toNat + 2) 4 .write = .error e → Denied s i e
  /-- SLDT, STR, SMSW (R334–R336): the word -/
  | words (i : Instr) (rm : RM) (e : Stop) : s.mode = .prot ∧ i ∈ [Instr.sldt rm, .str rm] ∨ i = .smsw rm →
      s.slot .word rm = .error e → Denied s i e
  /-- VERR, VERW (R346, R347): the operand -/
  | verify (i : Instr) (rm : RM) (e : Stop) : s.mode = .prot → i ∈ [Instr.verr rm, .verw rm] →
      s.rmRead .word rm = .error e → Denied s i e
  /-- VERR, VERW (R349): the descriptor (log 13) -/
  | verifyDescriptor (i : Instr) (rm : RM) (sel code : Word) (lin : Dword) : s.mode = .prot →
      i ∈ [Instr.verr rm, .verw rm] → s.rmRead .word rm = .ok sel → 4 ≤ sel.toNat →
      s.desc sel = some (.pageFault code lin) → Denied s i (.exc .pf (some code) (some lin))
  /-- XLATB (R370): the byte -/
  | xlatb (e : Stop) :
      s.memRead (s.cur.seg.getD .ds)
        ((s.regs.ebx.toNat + s.regs.eax.toNat % 256) % (if s.as = .s32 then 2 ^ 32 else 2 ^ 16)) .byte = .error e →
      Denied s .xlatb e
  /-- RET near (R233, R234): the offset -/
  | retNear (i : Instr) (e : Stop) : (i = .retNear ∨ ∃ m, i = .retNearImm m) → s.stackRead 0 s.os.width = .error e →
      Denied s i e
  /-- RET far in real and V86 mode (R235): the offset -/
  | retFarOffset (i : Instr) (imm : Nat) (e : Stop) : isFarRet i imm → s.mode ≠ .prot →
      s.stackRead 0 s.os.width = .error e → Denied s i e
  /-- RET far in real and V86 mode: the selector -/
  | retFarSelector (i : Instr) (imm : Nat) (v : BitVec s.os.width.bits) (e : Stop) : isFarRet i imm → s.mode ≠ .prot →
      s.stackRead 0 s.os.width = .ok v → s.stackRead s.os.width.bytes s.os.width = .error e → Denied s i e
  /-- RET far in protected mode (R237): the CS image, not inside the SS limit -/
  | retFarLimit (i : Instr) (imm : Nat) : isFarRet i imm → s.mode = .prot →
      s.segs.ss.cache.inLimit (s.spPlus (BitVec.ofNat 32 s.os.width.bytes)).toNat 2 = false →
      Denied s i (.exc .ss (some 0) none)
  /-- RET far in protected mode: the CS image -/
  | retFarImage (i : Instr) (imm : Nat) (e : Stop) : isFarRet i imm → s.mode = .prot →
      s.segs.ss.cache.inLimit (s.spPlus (BitVec.ofNat 32 s.os.width.bytes)).toNat 2 = true →
      s.stackRead s.os.width.bytes s.os.width = .error e → Denied s i e
  /-- RET far to the same level (R238 row 7): the offset -/
  | retSame (i : Instr) (imm : Nat) (x : BitVec s.os.width.bits) (d : Descriptor) (e : Stop) : isFarRet i imm →
      s.farFrame x → rpl (x.extractLsb' 0 16) = s.cpl → 4 ≤ (x.extractLsb' 0 16 : Word).toNat →
      s.desc (x.extractLsb' 0 16) = some (.found d) → d.isCode = true → d.present = true →
      (if d.isConforming = true then d.dpl ≤ s.cpl else d.dpl = s.cpl) → s.stackRead 0 s.os.width = .error e →
      Denied s i e
  /-- RET far to an outer level (R239 row 1): the frame, not inside the SS limit -/
  | retOuterLimit (i : Instr) (imm : Nat) (x : BitVec s.os.width.bits) : isFarRet i imm → s.farFrame x →
      s.cpl < rpl (x.extractLsb' 0 16) →
      s.segs.ss.cache.inLimit (s.spPlus 0).toNat (4 * s.os.width.bytes + imm) = false →
      Denied s i (.exc .ss (some 0) none)
  /-- RET far to an outer level: the SS image, first (log 28) -/
  | retOuterSs (i : Instr) (imm : Nat) (x : BitVec s.os.width.bits) (e : Stop) : isFarRet i imm → s.outerFrame imm x →
      s.stackRead (3 * s.os.width.bytes + imm) s.os.width = .error e → Denied s i e
  /-- RET far to an outer level: the stack pointer image -/
  | retOuterSp (i : Instr) (imm : Nat) (x z : BitVec s.os.width.bits) (e : Stop) : isFarRet i imm → s.outerFrame imm x →
      s.stackRead (3 * s.os.width.bytes + imm) s.os.width = .ok z →
      s.stackRead (2 * s.os.width.bytes + imm) s.os.width = .error e → Denied s i e
  /-- RET far to an outer level: the offset -/
  | retOuterOffset (i : Instr) (imm : Nat) (x y z : BitVec s.os.width.bits) (e : Stop) : isFarRet i imm →
      s.outerFrame imm x → s.stackRead (3 * s.os.width.bytes + imm) s.os.width = .ok z →
      s.stackRead (2 * s.os.width.bytes + imm) s.os.width = .ok y → s.stackRead 0 s.os.width = .error e → Denied s i e

/-! ## What an instruction may write -/

/-- The bits of EFLAGS an instruction may change (10_state R30–R38, R56). -/
def writtenBits (i : Instr) : List Nat :=
  match i with
  | .rol1 _ _ | .rolCl _ _ | .rolImm _ _ _ | .ror1 _ _ | .rorCl _ _ | .rorImm _ _ _ | .rcl1 _ _ | .rclCl _ _
  | .rclImm _ _ _ | .rcr1 _ _ | .rcrCl _ _ | .rcrImm _ _ _ => [0, 11]
  | .shl1 _ _ | .shlCl _ _ | .shlImm _ _ _ | .shr1 _ _ | .shrCl _ _ | .shrImm _ _ _ | .sar1 _ _ | .sarCl _ _
  | .sarImm _ _ _ | .shldImm _ _ _ | .shldCl _ _ | .shrdImm _ _ _ | .shrdCl _ _
  | .sbbRmR _ _ _ | .sbbRRm _ _ _ | .sbbRmImm _ _ _ _ | .sbbAccImm _ _ | .subRmR _ _ _ | .subRRm _ _ _
  | .subRmImm _ _ _ _ | .subAccImm _ _ | .xorRmR _ _ _ | .xorRRm _ _ _ | .xorRmImm _ _ _ _ | .xorAccImm _ _
  | .testRmR _ _ _ | .testRmImm _ _ _ | .testAccImm _ _ | .scasb | .scasw | .scasd => [0, 2, 4, 6, 7, 11]
  | .sahf => [0, 2, 4, 6, 7]
  | .stc => [0]
  | .std => [10]
  | .sti => [9]
  | .verr _ | .verw _ => [6]
  | .popf | .popfd => [0, 2, 4, 6, 7, 8, 9, 10, 11, 12, 13, 14]
  | _ => []

/-- The segment registers an instruction may change (10_state R43, 40_stack R153, R154, 42_ret R235–R241). -/
def writtenSegs (i : Instr) : List SReg :=
  match i with
  | .popEs => [.es]
  | .popSs => [.ss]
  | .popDs => [.ds]
  | .popFs => [.fs]
  | .popGs => [.gs]
  | .retFar | .retFarImm _ => [.es, .cs, .ss, .ds, .fs, .gs]
  | _ => []

/-! ## The invariant -/

/-- The reserved bits of EFLAGS read as they must: bit 1 is 1, bits 3, 5, 15 and 31:18 are 0 (10_state R29). -/
def reservedOk (f : Dword) : Prop := f &&& 0xFFFC802A = 2

/-- In protected mode CS holds a present code segment that the current level may run, and SS a present writable data segment
of that level, its RPL and DPL both CPL (10_state R43; 40_stack R155; 42_ret R238–R240). -/
def privilegeOk (s : State) : Prop :=
  s.mode = .prot →
    s.segs.cs.cache.isCode = true ∧ s.segs.cs.cache.present = true ∧
    (s.segs.cs.cache.isConforming = true ∨ s.segs.cs.cache.dpl = s.cpl) ∧
    (s.segs.cs.cache.isConforming = false ∨ s.segs.cs.cache.dpl ≤ s.cpl) ∧
    s.segs.ss.cache.isWritable = true ∧ s.segs.ss.cache.present = true ∧ s.segs.ss.cache.dpl = s.cpl ∧
    rpl s.segs.ss.selector = s.cpl

/-- What every step keeps: memory in canonical form, the reserved flags, the privilege of CS and SS, no instruction half
decoded, pending coprocessor stores at physical addresses. -/
def Inv (s : State) : Prop :=
  Memory.wf s.mem = true ∧ reservedOk s.eflags ∧ privilegeOk s ∧ s.cur = Cur.idle ∧ ∀ c ∈ s.coproc, c.addr < 2 ^ 32

end Sys2Proof.Machine
end

