-- ==== Sys2Proof/Certificates/Slice0/Obligations.lean ====
section
/-! DEFINITION. The statements about the machine, one `Prop` each, for others to prove. A memory operand's addresses are the
ones the machine's own checks answer (`State.access`, `State.target`, `State.slot`); AccessAddresses says which they are. -/

open Sys2Proof Sys2Proof.Machine

/-! ## Encoding -/

/-- 95_test_vectors 2.9 (V121–V126) and 30_encoding R127–R128: what some words decode to. -/
def Obligations.SampleWordsDecode : Prop :=
  decodeItem ⟨.s32, .s32⟩ [0xFF, 0xB4, 0x8B, 0x00, 0x01, 0x00, 0x00]
      = .ok (.pushRm (.mem (.sib .x4 .n1 .n3 (.d32 0x100))), []) ∧
    decodeItem ⟨.s32, .s32⟩ [0xFF, 0x35, 0x00, 0x40, 0x00, 0x00] = .ok (.pushRm (.mem (.abs32 0x4000)), []) ∧
    decodeItem ⟨.s32, .s16⟩ [0xFF, 0x36, 0x00, 0x40] = .ok (.pushRm (.mem (.abs16 0x4000)), []) ∧
    decodeItem ⟨.s16, .s32⟩ [0x81, 0xE9, 0x34, 0x12] = .ok (.subRmImm false true (.reg .n1) (.i16 0x1234), []) ∧
    decodeItem ⟨.s32, .s32⟩ [0xC1, 0x24, 0x8B, 0x05] = .ok (.shlImm true (.mem (.sib .x4 .n1 .n3 .none)) 5, []) ∧
    decodeItem ⟨.s32, .s32⟩ [0x0F, 0x95, 0x45, 0xFC] = .ok (.setne (.mem (.base32 .n5 (.d8 0xFC))), []) ∧
    decodeItem ⟨.s32, .s32⟩ [0x0F, 0xAD, 0xC2] = .ok (.shrdCl (.reg .n2) .n0, []) ∧
    decodeItem ⟨.s32, .s32⟩ [0xCA, 0x04, 0x00] = .ok (.retFarImm 4, []) ∧
    decodeItem ⟨.s32, .s32⟩ [0xD1, 0xF1] = .error .notInSource

/-- Decoding the encoding of a well-formed instruction gives it back, and leaves the bytes after it: all 117 rows, every
operand (30_encoding R110–R128). -/
def Obligations.DecodeOfEncode : Prop :=
  ∀ (c : Ctx) (i : Instr) (rest : List Byte), WellFormed c i = true → decodeItem c (encode i ++ rest) = .ok (i, rest)

/-- Whatever decodes is well formed, and its bytes are its encoding: no two byte strings decode to one instruction, no bit of
one is dropped (30_encoding R110–R128). -/
def Obligations.EncodeOfDecode : Prop :=
  ∀ (c : Ctx) (bs rest : List Byte) (i : Instr),
    decodeItem c bs = .ok (i, rest) → WellFormed c i = true ∧ bs = encode i ++ rest

/-! ## The step -/

/-- A step that is not refused for TF and takes no interrupt runs the instruction it fetches, and counts itself (log 22); and
so it does, in the same step (log 23), with one prefix byte before an instruction that may carry it (30_encoding R111). A
LOCK prefix is refused (R136; log 6). `next` is EIP plus the prefix bytes and the instruction, modulo 2^32, or modulo 2^16
under a 16-bit default size (00_scope R7, 10_state R27). -/
def Obligations.StepRunsInstruction : Prop :=
  (∀ (s : State) (p : Instr) (n : Nat),
    let s₀ : State := { s.sample with cur := Cur.idle }
    let counted := fun (o : Host.Outcome State Fault Refusal) => match o with
      | .next t => .next { t with draws := t.draws + 1 }
      | o => o
    flag s.eflags .tf = false → s.sample.interrupted = false → s₀.fetchItem = .ok (p, n) →
    (isPfx p = false → step s = counted (exec p (s₀.begin n))) ∧
    (∀ (u : State) (i : Instr) (len : Nat), isPfx p = true → exec p s₀ = .next u →
      u.fetchItem = .ok (i, len) → isPfx i = false →
      (prefixesFit u.cur i = .ok () → step s = counted (exec i (u.begin len))) ∧
      (p = .lockPfx → step s = .refused (.lockPrefix (lockable i))))) ∧
  ∀ (s : State) (n : Nat),
    (s.begin n).cur.next.toNat =
      (s.eip.toNat + s.cur.len + n) % (if s.mode = .prot ∧ s.segs.cs.cache.big = true then 2 ^ 32 else 2 ^ 16) ∧
    s.begin n = { s with cur := { s.cur with next := (s.begin n).cur.next } }

/-- Where memory at CS:EIP holds the encoding of an instruction, inside the limit, with paging off and nothing stale or pending,
that is what the fetch gives (10_state R27, 20_memory R71). -/
def Obligations.FetchReadsMemory : Prop :=
  ∀ (s : State) (i : Instr),
    s.cur = Cur.idle → s.paging = false → s.stale = [] → s.coproc = [] → WellFormed s.ctx i = true →
    (∀ j, j < (encode i).length →
      (match s.mode with
        | .prot => s.segs.cs.cache.inLimit (s.eip.toNat + j) 1 = true
        | _ => s.eip.toNat + j ≤ 0xFFFF) ∧
      s.populatedAt (s.segs.cs.cache.base + (s.eip + BitVec.ofNat 32 j)).toNat = .ok () ∧
      Memory.get s.mem (s.segs.cs.cache.base + (s.eip + BitVec.ofNat 32 j)).toNat = (encode i).getD j 0) →
    s.fetchItem = .ok (i, (encode i).length)

/-- 60_exceptions R421, R423: no interrupt is taken where none is requested, where IF is 0 or where the inhibit is 1; elsewhere
one may be, by a free choice, before the instruction at EIP, whose address is saved; or the step runs that instruction. -/
def Obligations.InterruptOnlyWhereAllowed : Prop :=
  ∀ (s : State),
    (s.sample.pins.intr = false ∨ flag s.eflags .fi = false ∨ s.inhibit = true →
      ∀ a, step s ≠ .fault (.interrupt a)) ∧
    (s.sample.pins.intr = true → flag s.eflags .fi = true → s.inhibit = false → flag s.eflags .tf = false →
      if Config.drawBit s.draws .interrupt = true then step s = .fault (.interrupt s.eip)
      else ∀ a, step s ≠ .fault (.interrupt a))

/-! ## Exceptions -/

/-- 60_exceptions R400, R404: the state an exception leaves is the one before the instruction, but that a page fault writes CR2;
the run ends there (log 1), the step's sample of the inputs stays taken (log 18). A page fault carries the code of an entry of
the paging table, CR2 being a linear address that entry speaks of, or of a descriptor whose reading faults, with its address,
whether or not CR0.PG is set (log 13). R408: an access of an instruction that stops, stops the instruction: it raises that
exception, or is refused for that reason, with the state before it. -/
def Obligations.ExceptionsArePrecise : Prop :=
  (∀ (s a : State) (x : Exc) (code : Option Word), step s = .fault (.raised x code a) →
    (∃ cr2, a = { s.sample with cr2 := cr2, cur := Cur.idle } ∧ (x ≠ .pf → cr2 = s.cr2)) ∧
    (x = .pf → ∃ c, code = some c ∧
      ((∃ write, s.paging = true ∧ s.walkFaults a.cr2 write c) ∨
        s.mode = .prot ∧ ∃ sel, s.desc sel = some (.pageFault c a.cr2)))) ∧
  (∀ (s : State) (i : Instr) (x : Exc) (code : Option Word) (cr2 : Option Dword), Denied s i (.exc x code cr2) →
    exec i s = .fault (.raised x (if s.mode = .real then none else code)
      { s with cr2 := cr2.getD s.cr2, cur := Cur.idle })) ∧
  ∀ (s : State) (i : Instr) (r : Refusal), Denied s i (.refuse r) → exec i s = .refused r

/-- 60_exceptions R401, R403–R405: the vectors; which exceptions carry an error code; real mode reports none and has no page
fault. That a selector's code is recorded with its two low bits clear is the model's convention (log 35): R403 lets a proof
rest on bits 15:2 only. -/
def Obligations.ErrorCodes : Prop :=
  [Exc.ud, .nm, .np, .ss, .gp, .pf, .mf].map Exc.vector = [6, 7, 11, 12, 13, 14, 16] ∧
  ∀ (s a : State) (x : Exc) (code : Option Word), step s = .fault (.raised x code a) →
    (s.mode = .real → code = none ∧ x ≠ .pf) ∧
    (s.mode ≠ .real →
      match x with
      | .ud | .nm | .mf => code = none
      | .np | .ss | .gp => ∃ c, code = some c ∧ c &&& 3 = 0
      | .pf => code.isSome = true)

/-- 60_exceptions R407, R408: no instruction but a push ends in Shutdown, and only in real mode where its item, or one of the
eight of PUSHA and PUSHAD (log 26), reaches past offset FFFFh. That this includes a 32-bit stack pointer is the model's
choice (log 43). -/
def Obligations.OnlyPushesShutDown : Prop :=
  ∀ (s : State) (i : Instr), exec i s = .fault .shutdown →
    let past := fun (w : Width) (j : Nat) => 0xFFFF < (s.spPlus (- BitVec.ofNat 32 (w.bytes * j))).toNat + w.bytes - 1
    s.mode = .real ∧
      ((∃ f : PushForm, i = f.instr ∧ past s.os.width 1) ∨
        (i = .pushf ∧ past .word 1) ∨ (i = .pushfd ∧ past .dword 1) ∨
        (i = .pusha ∧ ∃ j, 1 ≤ j ∧ j ≤ 8 ∧ past .word j) ∨ (i = .pushad ∧ ∃ j, 1 ≤ j ∧ j ≤ 8 ∧ past .dword j))

/-! ## Memory -/

/-- 20_memory R74, R75, R77, 60_exceptions R415: in real and V86 mode an access passes exactly where its last byte is not beyond
FFFFh, and otherwise the stack fault is raised for SS and general protection for the others; in protected mode each of the
conditions 3–9, where none before it holds, gives its exception, and where none holds the segment check passes. That the limit
alone bounds an item of the stack at SA = 16 too, past FFFFh, is the model's choice beside R92 (log 48). -/
def Obligations.SegmentChecks : Prop :=
  ∀ (s : State) (seg : SReg) (off n : Nat) (k : Access),
    (s.mode ≠ .prot →
      s.segCheck seg off n k =
        if off + n - 1 ≤ 0xFFFF then .ok () else raise (if seg = .ss then .ss else .gp) 0) ∧
    (s.mode = .prot →
      let r := s.seg seg
      let dataReg := seg ≠ .cs ∧ seg ≠ .ss
      let c3 := dataReg ∧ (nullSel r.selector = true ∨ r.valid = false)
      let c4 := seg = .ss ∧ r.cache.present = false
      let c5 := dataReg ∧ r.cache.present = false
      let c6 := k ≠ .write ∧ r.cache.isExecuteOnly = true
      let c7 := k ≠ .read ∧ r.cache.isWritable = false
      let c8 := r.cache.inLimit off n = false
      (c3 → s.segCheck seg off n k = raise .gp 0) ∧
      (¬c3 → c4 → s.segCheck seg off n k = raise .ss (r.selector &&& 0xFFFC)) ∧
      (¬c3 → c5 → s.segCheck seg off n k = raise .np (r.selector &&& 0xFFFC)) ∧
      (¬c3 → ¬c4 → ¬c5 → c6 ∨ c7 → s.segCheck seg off n k = raise .gp 0) ∧
      (¬c3 → ¬c4 → ¬c5 → ¬c6 → ¬c7 → c8 → s.segCheck seg off n k = raise (if seg = .ss then .ss else .gp) 0) ∧
      (¬c3 → ¬c4 → ¬c5 → ¬c6 → ¬c7 → ¬c8 → s.segCheck seg off n k = .ok ()))

/-- Where an operand lies and what an access to it reaches. 20_memory R72, R73, 30_encoding R114–R116: the effective address is
the sum of its parts truncated to the address size, in DS, in SS for an (E)BP or ESP base, or in the segment of an override;
45_string R310: the string element is at EDI, or DI. R71, R76, R84: with paging off an access whose segment check passes
reaches the n bytes at the base plus the offset, modulo 2^32; an ordinary segment holds them when the last offset is not
beyond its limit. R78, R84, R86, 60_exceptions R404: with paging on it reaches the bytes the paging table (log 14) gives; the
first byte, lowest first, whose walk faults raises the page fault with the table's code, CR2 taking the linear address of that
byte; a read-modify-write walks for writing first (log 15), writes where that walk leads and reads where the other does. R81:
with no coprocessor store pending the value read is the little-endian one of the bytes there. -/
def Obligations.AccessAddresses : Prop :=
  (∀ (s : State) (m : Mem),
    ((s.ea m).toNat : Int) = s.addressSum m % 2 ^ memBits m ∧
    (∀ r, s.cur.seg = some r → s.memSeg m = r) ∧
    (s.cur.seg = none → s.memSeg m = if stackBased m = true then .ss else .ds) ∧
    s.strIndex.toNat = s.regs.edi.toNat % (if s.as = .s32 then 2 ^ 32 else 2 ^ 16)) ∧
  (∀ (s : State) (seg : SReg) (off n : Nat) (k : Access), s.paging = false → s.segCheck seg off n k = .ok () →
    (∀ j, j < n → s.populatedAt ((s.seg seg).cache.base + BitVec.ofNat 32 (off + j)).toNat = .ok ()) →
    s.access seg off n k
      = .ok ((List.range n).map (fun j => ((s.seg seg).cache.base + BitVec.ofNat 32 (off + j)).toNat))) ∧
  (∀ (s : State) (seg : SReg) (off n : Nat), s.paging = false → s.segCheck seg off n .rmw = .ok () →
    (∀ j, j < n → s.populatedAt ((s.seg seg).cache.base + BitVec.ofNat 32 (off + j)).toNat = .ok ()) →
    let ps := (List.range n).map (fun j => ((s.seg seg).cache.base + BitVec.ofNat 32 (off + j)).toNat)
    s.accessRmw seg off n = .ok (ps, ps)) ∧
  (∀ (d : Descriptor) (off n : Nat), (∀ w, d.kind ≠ .data w true) → 0 < n →
    (d.inLimit off n = true ↔ off + n - 1 ≤ d.limit.toNat)) ∧
  (∀ (s : State) (seg : SReg) (off : Nat), s.linear seg off = (s.seg seg).cache.base + BitVec.ofNat 32 off) ∧
  (∀ (s : State) (seg : SReg) (off n : Nat) (k : Access), s.paging = true → s.segCheck seg off n k = .ok () →
    (∀ ps : Nat → Nat, (∀ j, j < n → s.walksTo (s.linear seg (off + j)) (k != .read) (ps j) ∧ s.populatedAt (ps j) = .ok ()) →
      s.access seg off n k = .ok ((List.range n).map ps)) ∧
    (∀ j c, j < n → s.firstFault seg off (k != .read) j c →
      s.access seg off n k = raisePf c (s.linear seg (off + j)))) ∧
  (∀ (s : State) (seg : SReg) (off n : Nat), s.paging = true → s.segCheck seg off n .rmw = .ok () →
    (∀ ws rs : Nat → Nat, (∀ j, j < n →
        s.walksTo (s.linear seg (off + j)) true (ws j) ∧ s.walksTo (s.linear seg (off + j)) false (rs j) ∧
        s.populatedAt (ws j) = .ok () ∧ s.populatedAt (rs j) = .ok ()) →
      s.accessRmw seg off n = .ok ((List.range n).map ws, (List.range n).map rs)) ∧
    (∀ j c, j < n → s.firstFault seg off true j c → s.accessRmw seg off n = raisePf c (s.linear seg (off + j))) ∧
    (∀ j c, j < n → (∀ i, i < n → ∀ d, ¬s.walkFaults (s.linear seg (off + i)) true d) → s.firstFault seg off false j c →
      s.accessRmw seg off n = raisePf c (s.linear seg (off + j)))) ∧
  (∀ (s : State) (seg : SReg) (off : Nat) (w : Width) (ps : List Nat), s.coproc = [] →
    s.access seg off w.bytes .read = .ok ps →
    ∃ v, s.memRead seg off w = .ok v ∧ bytesOf w v = ps.map (Memory.get s.mem)) ∧
  (∀ (s : State) (m : Mem) (w : Width) (ws rs : List Nat), s.coproc = [] →
    s.accessRmw (s.memSeg m) (s.ea m).toNat w.bytes = .ok (ws, rs) →
    ∃ v, s.target w (.mem m) = .ok (v, ws) ∧ bytesOf w v = rs.map (Memory.get s.mem)) ∧
  (∀ (s : State) (c : Word) (lin : Dword), s.mode ≠ .real →
    conclude s (raisePf c lin) = .fault (.raised .pf (some c) { s with cr2 := lin, cur := Cur.idle }))

/-- 20_memory R81, R83: with paging off and no coprocessor store pending, a value stored reads back whole, and each of its bytes
reads back alone, the lowest address holding its low bits. -/
def Obligations.StoreThenLoad : Prop :=
  ∀ (s t : State) (seg : SReg) (off : Nat) (w : Width) (v : BitVec w.bits),
    Memory.wf s.mem = true → s.paging = false → s.coproc = [] →
    s.memWrite seg off w v = .ok t →
    t.memRead seg off w = .ok v ∧
      ∀ j, j < w.bytes → t.segCheck seg (off + j) 1 .read = .ok () →
        t.memRead seg (off + j) .byte = .ok (v.extractLsb' (8 * j) 8)

/-- 10_state R22–R24: a register written at a width reads back, and no other bit of any register changes. 20_memory R89–R92:
the stack address size is the address size where that is the stack segment's size too; the pointer moves modulo 2^32, or
modulo 2^16 with the high half left alone. -/
def Obligations.RegisterWidths : Prop :=
  (∀ (g : Regs) (w : Width) (i : RegNum) (v : BitVec w.bits),
    (g.write w i v).read w i = v ∧
    (∀ j, j ≠ (if w = .byte then byteHome i else i) → (g.write w i v).get j = g.get j) ∧
    (w = .word → ((g.write w i v).get i).extractLsb' 16 16 = (g.get i).extractLsb' 16 16) ∧
    (w = .byte → ∀ b, (if byteHigh i = true then b < 8 ∨ 16 ≤ b else 8 ≤ b) →
      ((g.write w i v).get (byteHome i)).getLsbD b = (g.get (byteHome i)).getLsbD b)) ∧
  ∀ (s : State) (d : Dword),
    (s.as = (if s.segs.ss.cache.big then .s32 else .s16) → s.stackSize = s.as) ∧
    (s.stackSize = .s32 → s.spPlus d = s.regs.esp + d ∧ (s.setSp .s32 d).regs.esp = d) ∧
    (s.stackSize = .s16 →
      s.spPlus d = ((s.regs.esp.extractLsb' 0 16 + d.extractLsb' 0 16).setWidth 32) ∧
      (s.setSp .s16 d).regs.esp = (s.regs.esp.extractLsb' 16 16 ++ d.extractLsb' 0 16 : BitVec 32))

/-! ## The stack family (40_stack) -/

/-- R90, R163–R168: a push of one operand completes where its operand is readable and its item may be stored: the item is stored
below the old pointer, the value pushed being the one before the pointer moves. -/
def Obligations.PushCompletes : Prop :=
  ∀ (s : State) (f : PushForm) (v : BitVec s.os.width.bits) (ps : List Nat),
    Memory.wf s.mem = true → f.item s = .ok v →
    s.access .ss (s.spPlus (- BitVec.ofNat 32 s.os.width.bytes)).toNat s.os.width.bytes .write = .ok ps → ps.Nodup →
    ∃ t, exec f.instr s = .next t ∧
      spBecomes s t (s.spPlus (- BitVec.ofNat 32 s.os.width.bytes)) ∧ regsKept [.n4] s t ∧
      ps.map (Memory.get t.mem) = bytesOf s.os.width v ∧ memKept ps s t ∧
      t.eflags = s.eflags ∧ t.segs = s.segs ∧ systemKept s t ∧ completed s t

/-- R171–R172: PUSHA and PUSHAD complete where their eight items may be stored at distinct bytes: from the final pointer upward
lie DI, SI, BP, the old SP, BX, DX, CX, AX. -/
def Obligations.PushAllCompletes : Prop :=
  ∀ (s : State) (i : Instr) (w : Width) (ps : Nat → List Nat),
    (i, w) ∈ [(Instr.pusha, Width.word), (Instr.pushad, Width.dword)] → Memory.wf s.mem = true →
    (∀ j, j < 8 →
      s.access .ss (s.spPlus (- BitVec.ofNat 32 (w.bytes * (8 - j)))).toNat w.bytes .write = .ok (ps j)) →
    ((List.range 8).flatMap ps).Nodup →
    ∃ t, exec i s = .next t ∧
      spBecomes s t (s.spPlus (- BitVec.ofNat 32 (w.bytes * 8))) ∧ regsKept [.n4] s t ∧
      (List.range 8).map (fun j => (ps j).map (Memory.get t.mem)) =
        [RegNum.n7, .n6, .n5, .n4, .n3, .n2, .n1, .n0].map (fun r => bytesOf w (s.reg w r)) ∧
      memKept ((List.range 8).flatMap ps) s t ∧
      t.eflags = s.eflags ∧ t.segs = s.segs ∧ systemKept s t ∧ completed s t

/-- R173–R174: PUSHF and PUSHFD complete, but in V86 mode with IOPL below 3: the item is FLAGS or EFLAGS, bits 17:16 free in the
32-bit image when either is 1; EFLAGS itself is kept. -/
def Obligations.PushFlagsCompletes : Prop :=
  ∀ (s : State) (i : Instr) (w : Width) (ps : List Nat),
    (i, w) ∈ [(Instr.pushf, Width.word), (Instr.pushfd, Width.dword)] → Memory.wf s.mem = true →
    ¬(s.mode = .v86 ∧ s.iopl ≠ 3) →
    s.access .ss (s.spPlus (- BitVec.ofNat 32 w.bytes)).toNat w.bytes .write = .ok ps → ps.Nodup →
    ∃ (t : State) (v : BitVec w.bits), exec i s = .next t ∧
      (∀ b, b < w.bits → b ≠ 16 → b ≠ 17 → v.getLsbD b = s.eflags.getLsbD b) ∧
      (flag s.eflags .vm = false → flag s.eflags .rf = false → v = s.eflags.setWidth w.bits) ∧
      spBecomes s t (s.spPlus (- BitVec.ofNat 32 w.bytes)) ∧ regsKept [.n4] s t ∧
      ps.map (Memory.get t.mem) = bytesOf w v ∧ memKept ps s t ∧
      t.eflags = s.eflags ∧ t.segs = s.segs ∧ systemKept s t ∧ completed s t

/-- R170, 60_exceptions R408: in real mode a push whose item reaches past FFFFh ends in Shutdown: with a 16-bit stack pointer
SP = 1 for a word, 1 to 3 for a double word. That it is so with a 32-bit one too is the model's choice (log 43). -/
def Obligations.LowStackShutsDown : Prop :=
  ∀ (s : State), s.mode = .real →
    let past := fun (w : Width) => 0xFFFF < (s.spPlus (- BitVec.ofNat 32 w.bytes)).toNat + w.bytes - 1
    (∀ (f : PushForm) (v : BitVec s.os.width.bits), f.item s = .ok v → past s.os.width → exec f.instr s = .fault .shutdown) ∧
    (past .word → exec .pusha s = .fault .shutdown ∧ exec .pushf s = .fault .shutdown) ∧
    (past .dword → exec .pushad s = .fault .shutdown ∧ exec .pushfd s = .fault .shutdown) ∧
    (s.stackSize = .s16 →
      let sp := (s.regs.esp.extractLsb' 0 16).toNat
      (past .word ↔ sp = 1) ∧ (past .dword ↔ 0 < sp ∧ sp < 4))

/-- R152 (and R151 with a register): POP into a general register other than (E)SP: the register takes the item, the pointer
moves past it. Into (E)SP the parameter POP_SP_ORDER decides what is left (log 3). -/
def Obligations.PopRegisterCompletes : Prop :=
  ∀ (s : State) (i : Instr) (r : RegNum) (v : BitVec s.os.width.bits),
    i = .popR r ∨ i = .popRm (.reg r) → s.stackRead 0 s.os.width = .ok v →
    ∃ t, exec i s = .next t ∧
      (r ≠ .n4 → regBecomes s t s.os.width r v ∧
        spBecomes s t (s.spPlus (BitVec.ofNat 32 s.os.width.bytes)) ∧ regsKept [r, .n4] s t) ∧
      (r = .n4 → regsKept [.n4] s t ∧
        match Config.popSpOrder with
        | .source => spBecomes (s.setReg s.os.width .n4 v) t
            ((s.setReg s.os.width .n4 v).spPlus (BitVec.ofNat 32 s.os.width.bytes))
        | .incrementFirst => t.reg s.os.width .n4 = v) ∧
      t.eflags = s.eflags ∧ t.segs = s.segs ∧ memKept [] s t ∧ systemKept s t ∧ completed s t

/-- R151: POP into memory: the item read from the stack is stored at the destination, whose address is computed, where ESP is
its base, by POP_SP_ORDER (log 3); the pointer moves past the item. -/
def Obligations.PopMemoryCompletes : Prop :=
  ∀ (s : State) (m : Mem) (v : BitVec s.os.width.bits) (ps : List Nat),
    Memory.wf s.mem = true → s.stackRead 0 s.os.width = .ok v →
    s.access (s.memSeg m) (s.popEa s.os.width m).toNat s.os.width.bytes .write = .ok ps → ps.Nodup →
    (espBased m = false → s.popEa s.os.width m = s.ea m) ∧
    ∃ t, exec (.popRm (.mem m)) s = .next t ∧
      spBecomes s t (s.spPlus (BitVec.ofNat 32 s.os.width.bytes)) ∧ regsKept [.n4] s t ∧
      ps.map (Memory.get t.mem) = bytesOf s.os.width v ∧ memKept ps s t ∧
      t.eflags = s.eflags ∧ t.segs = s.segs ∧ systemKept s t ∧ completed s t

/-- R153–R155, real and V86 mode: POP of a segment register takes the low 16 bits of the item; the base becomes the selector
times 16, the rest of the cache stays. -/
def Obligations.PopSegmentOutsideProtectedMode : Prop :=
  ∀ (s : State) (i : Instr) (r : SReg) (v : BitVec s.os.width.bits),
    (i, r) ∈ segPops → s.mode ≠ .prot → s.stackRead 0 s.os.width = .ok v →
    ∃ t, exec i s = .next t ∧
      (t.seg r).selector = v.extractLsb' 0 16 ∧ (t.seg r).cache.base.toNat = 16 * (v.extractLsb' 0 16).toNat ∧
      (t.seg r).cache = { (s.seg r).cache with base := (t.seg r).cache.base } ∧ (t.seg r).valid = (s.seg r).valid ∧
      (∀ q, q ≠ r → t.seg q = s.seg q) ∧
      spBecomes s t (s.spPlus (BitVec.ofNat 32 s.os.width.bytes)) ∧ regsKept [.n4] s t ∧
      t.eflags = s.eflags ∧ memKept [] s t ∧ systemKept s t ∧
      t.eip = s.cur.next ∧ t.cur = Cur.idle ∧ t.inhibit = decide (r = .ss)

/-- R155, protected mode, rows 2 and 8: POP of a segment register loads the descriptor of a selector that passes the checks;
a null selector is stored in DS, ES, FS, GS and marks the register invalid. That POP SS moves the pointer at the stack address
size of the old SS, where the new one has another size attribute, is the model's choice (log 46). -/
def Obligations.PopSegmentInProtectedMode : Prop :=
  ∀ (s : State) (i : Instr) (r : SReg) (v : BitVec s.os.width.bits) (d : Descriptor),
    (i, r) ∈ segPops → s.mode = .prot → s.stackRead 0 s.os.width = .ok v →
    let sel : Word := v.extractLsb' 0 16
    let found := s.desc sel = some (.found d) ∧ d.present = true
    (r ≠ .ss ∧ sel.toNat < 4 ∨
      r ≠ .ss ∧ 4 ≤ sel.toNat ∧ found ∧ d.isReadable = true ∧
        (d.isConforming = true ∨ s.cpl ≤ d.dpl ∧ rpl sel ≤ d.dpl) ∨
      r = .ss ∧ 4 ≤ sel.toNat ∧ found ∧ d.isWritable = true ∧ rpl sel = s.cpl ∧ d.dpl = s.cpl) →
    ∃ t, exec i s = .next t ∧
      t.seg r = (if sel.toNat < 4 then { s.seg r with selector := sel, valid := false }
        else { selector := sel, cache := d, valid := true }) ∧
      (∀ q, q ≠ r → t.seg q = s.seg q) ∧
      spBecomes s t (s.spPlus (BitVec.ofNat 32 s.os.width.bytes)) ∧ regsKept [.n4] s t ∧
      t.eflags = s.eflags ∧ memKept [] s t ∧ systemKept s t ∧
      t.eip = s.cur.next ∧ t.cur = Cur.idle ∧ t.inhibit = decide (r = .ss)

/-- R155, protected mode, rows 1 and 3–7: what POP of a segment register raises, each where no row before it applies; a page
fault on reading the descriptor comes before the rows that look at its contents, after all others (log 27), and is raised
whether or not CR0.PG is set, which is the model's choice (log 13; R78, row 7). -/
def Obligations.PopSegmentTraps : Prop :=
  ∀ (s : State) (i : Instr) (r : SReg) (v : BitVec s.os.width.bits),
    (i, r) ∈ segPops → s.mode = .prot → s.stackRead 0 s.os.width = .ok v →
    let sel : Word := v.extractLsb' 0 16
    let raised := fun (x : Exc) (c : Word) => exec i s = .fault (.raised x (some c) { s with cur := Cur.idle })
    (r = .ss → sel.toNat < 4 → raised .gp 0) ∧
    (4 ≤ sel.toNat → s.desc sel = none → raised .gp (sel &&& 0xFFFC)) ∧
    (r = .ss → 4 ≤ sel.toNat → rpl sel ≠ s.cpl → raised .gp (sel &&& 0xFFFC)) ∧
    (∀ c lin, 4 ≤ sel.toNat → (r = .ss → rpl sel = s.cpl) → s.desc sel = some (.pageFault c lin) →
      exec i s = .fault (.raised .pf (some c) { s with cr2 := lin, cur := Cur.idle })) ∧
    (∀ d, 4 ≤ sel.toNat → s.desc sel = some (.found d) →
      let bad := if r = .ss then rpl sel ≠ s.cpl ∨ d.isWritable = false ∨ d.dpl ≠ s.cpl
        else d.isReadable = false ∨ d.isConforming = false ∧ (d.dpl < s.cpl ∨ d.dpl < rpl sel)
      (bad → raised .gp (sel &&& 0xFFFC)) ∧
      (¬bad → d.present = false → raised (if r = .ss then .ss else .np) (sel &&& 0xFFFC)))

/-- R156–R157: POPA and POPAD complete where their eight items are readable (in V86 mode with IOPL below 3, where
V86_POPA_IOPL lets them): the seven registers take their items, the fourth is dropped, the pointer moves past all. -/
def Obligations.PopAllCompletes : Prop :=
  ∀ (s : State) (i : Instr) (w : Width) (x : Nat → BitVec w.bits),
    (i, w) ∈ [(Instr.popa, Width.word), (Instr.popad, Width.dword)] →
    ¬(s.mode = .v86 ∧ s.iopl ≠ 3 ∧ Config.v86PopaFaults = true) →
    (∀ j, j < 8 → s.stackRead (w.bytes * j) w = .ok (x j)) →
    ∃ t, exec i s = .next t ∧
      (∀ r j, (r, j) ∈ [(RegNum.n7, 0), (.n6, 1), (.n5, 2), (.n3, 4), (.n2, 5), (.n1, 6), (.n0, 7)] →
        regBecomes s t w r (x j)) ∧
      spBecomes s t (s.spPlus (BitVec.ofNat 32 (8 * w.bytes))) ∧
      t.eflags = s.eflags ∧ t.segs = s.segs ∧ memKept [] s t ∧ systemKept s t ∧ completed s t

/-- R158–R160: POPF and POPFD complete with an image that does not set TF, but in V86 mode with IOPL below 3: each bit of
EFLAGS by the table of R160, the privilege conditions taken before the instruction. R160 and 60_exceptions R438: an image that
would set TF is refused, once it is read (log 7). -/
def Obligations.PopFlagsCompletes : Prop :=
  ∀ (s : State) (i : Instr) (w : Width) (v : BitVec w.bits),
    (i, w) ∈ [(Instr.popf, Width.word), (Instr.popfd, Width.dword)] →
    ¬(s.mode = .v86 ∧ s.iopl ≠ 3) → s.stackRead 0 w = .ok v →
    (v.getLsbD 8 = true → exec i s = .refused .singleStep) ∧
    (v.getLsbD 8 = false → ∃ t, exec i s = .next t ∧
      (∀ b, b ∈ [0, 2, 4, 6, 7, 8, 10, 11, 14] → t.eflags.getLsbD b = v.getLsbD b) ∧
      (t.eflags.getLsbD 9 = if s.mode = .real ∨ s.cpl ≤ s.iopl then v.getLsbD 9 else s.eflags.getLsbD 9) ∧
      (∀ b, b = 12 ∨ b = 13 → t.eflags.getLsbD b =
        if s.mode = .real ∨ s.mode = .prot ∧ s.cpl = 0 then v.getLsbD b else s.eflags.getLsbD b) ∧
      (∀ b, b ∉ [0, 2, 4, 6, 7, 8, 9, 10, 11, 12, 13, 14] → t.eflags.getLsbD b = s.eflags.getLsbD b) ∧
      spBecomes s t (s.spPlus (BitVec.ofNat 32 w.bytes)) ∧ regsKept [.n4] s t ∧
      t.segs = s.segs ∧ memKept [] s t ∧ systemKept s t ∧ completed s t)

/-- R158, R173, 43_flag_control R265–R267: what the flag instructions sensitive to IOPL raise. -/
def Obligations.IoplTraps : Prop :=
  ∀ (s : State),
    (s.mode = .v86 → s.iopl ≠ 3 → ∀ i, i ∈ [Instr.popf, .popfd, .pushf, .pushfd, .sti] →
      exec i s = .fault (.raised .gp (some 0) { s with cur := Cur.idle })) ∧
    (s.mode = .prot → s.iopl < s.cpl →
      exec .sti s = .fault (.raised .gp (some 0) { s with cur := Cur.idle }))

/-! ## Rotates and shifts (41_rotate_shift) -/

/-- R194, R195: ROL and ROR complete where the operand may be modified: it turns by the masked count; CF is the last bit moved;
OF is defined for a count of 1; no other flag changes. -/
def Obligations.RotatesComplete : Prop :=
  ∀ (s : State) (left w : Bool) (k : Count) (rm : RM) (a : BitVec (opWidth w s.os).bits) (ws : List Nat),
    Memory.wf s.mem = true → s.target (opWidth w s.os) rm = .ok (a, ws) → ws.Nodup →
    let c := k.value s
    let r := if left then a.rotateLeft c else a.rotateRight c
    ∃ t, exec (shiftInstr (if left then .rol else .ror) k w rm) s = .next t ∧
      operandIs s t (opWidth w s.os) rm ws r ∧
      flag t.eflags .cf = (if c = 0 then flag s.eflags .cf else if left then r.getLsbD 0 else r.msb) ∧
      (c = 1 → flag t.eflags .of = (if left then r.getLsbD 0 != r.msb
        else r.msb != r.getLsbD ((opWidth w s.os).bits - 2))) ∧
      flagsKept [.cf, .of] s t ∧ t.segs = s.segs ∧ systemKept s t ∧ completed s t

/-- R192, R193: RCL and RCR turn the ring of CF and the operand, n + 1 bits, by the masked count. -/
def Obligations.RotatesThroughCarryComplete : Prop :=
  ∀ (s : State) (left w : Bool) (k : Count) (rm : RM) (a : BitVec (opWidth w s.os).bits) (ws : List Nat),
    Memory.wf s.mem = true → s.target (opWidth w s.os) rm = .ok (a, ws) → ws.Nodup →
    let c := k.value s
    let ring := BitVec.cons (flag s.eflags .cf) a
    let ring' := if left then ring.rotateLeft c else ring.rotateRight c
    let r := ring'.setWidth (opWidth w s.os).bits
    ∃ t, exec (shiftInstr (if left then .rcl else .rcr) k w rm) s = .next t ∧
      operandIs s t (opWidth w s.os) rm ws r ∧
      flag t.eflags .cf = ring'.msb ∧
      (c = 1 → flag t.eflags .of = (if left then ring'.msb != r.msb
        else r.msb != r.getLsbD ((opWidth w s.os).bits - 2))) ∧
      flagsKept [.cf, .of] s t ∧ t.segs = s.segs ∧ systemKept s t ∧ completed s t

/-- R196–R198: SHL, SHR and SAR complete: the operand shifts by the masked count c; CF is the last bit shifted out while c does
not pass the width (for SAR the sign beyond it); OF is defined for c = 1; with c = 0 no flag but OF changes. -/
def Obligations.ShiftsComplete : Prop :=
  ∀ (s : State) (op : ShiftOp) (w : Bool) (k : Count) (rm : RM) (a : BitVec (opWidth w s.os).bits) (ws : List Nat),
    op ∈ [ShiftOp.shl, .shr, .sar] →
    Memory.wf s.mem = true → s.target (opWidth w s.os) rm = .ok (a, ws) → ws.Nodup →
    let n := (opWidth w s.os).bits
    let c := k.value s
    let r := match op with
      | .shl => a <<< c
      | .shr => a >>> c
      | _ => a.sshiftRight c
    ∃ t, exec (shiftInstr op k w rm) s = .next t ∧
      operandIs s t (opWidth w s.os) rm ws r ∧
      (1 ≤ c → c ≤ n → flag t.eflags .cf = (if op = .shl then a.getLsbD (n - c) else a.getLsbD (c - 1))) ∧
      (n < c → op = .sar → flag t.eflags .cf = a.msb) ∧
      (c = 1 → flag t.eflags .of = (match op with
        | .shl => a.msb != r.msb
        | .shr => a.msb
        | _ => false)) ∧
      (c = 0 → flagsKept [.of] s t) ∧ flagsKept statusFlags s t ∧ t.segs = s.segs ∧ systemKept s t ∧ completed s t

/-- R199, R200: SHLD and SHRD complete: for 1 ≤ c ≤ n the operand takes n bits of the double word made with the register, CF the
last bit shifted out of it, SF, ZF and PF from the result; with c = 0 nothing changes; past the width the result and the
flags are free, and nothing else changes. -/
def Obligations.DoubleShiftsComplete : Prop :=
  ∀ (s : State) (left : Bool) (count : Option Byte) (rm : RM) (g : RegNum) (a : BitVec s.os.width.bits) (ws : List Nat),
    Memory.wf s.mem = true → s.target s.os.width rm = .ok (a, ws) → ws.Nodup →
    let i := match left, count with
      | true, some m => Instr.shldImm rm g m
      | true, none => Instr.shldCl rm g
      | false, some m => Instr.shrdImm rm g m
      | false, none => Instr.shrdCl rm g
    let n := s.os.width.bits
    let c := (count.getD (s.reg .byte .n1)).toNat % 32
    let b := s.reg s.os.width g
    ∃ (t : State) (r : BitVec s.os.width.bits), exec i s = .next t ∧
      operandIs s t s.os.width rm ws r ∧
      (c ≤ n → r = if left then ((a ++ b) <<< c).extractLsb' n n else ((b ++ a) >>> c).extractLsb' 0 n) ∧
      (1 ≤ c → c ≤ n → flag t.eflags .cf = (if left then a.getLsbD (n - c) else a.getLsbD (c - 1)) ∧
        resultStatus t.eflags r) ∧
      (c = 0 → t.eflags = s.eflags) ∧
      flagsKept statusFlags s t ∧ t.segs = s.segs ∧ systemKept s t ∧ completed s t

/-! ## RET (42_ret) -/

/-- R232–R234: RET near completes where the popped offset lies inside the code segment, and raises #GP(0) where it does not: EIP
is the item, zero-extended, the pointer moves past it and the immediate. -/
def Obligations.RetNearCompletes : Prop :=
  ∀ (s : State) (i : Instr) (imm : Nat) (v : BitVec s.os.width.bits),
    (i = .retNear ∧ imm = 0 ∨ ∃ m, i = .retNearImm m ∧ imm = m.toNat) → s.stackRead 0 s.os.width = .ok v →
    let inside := match s.mode with
      | .prot => s.segs.cs.cache.inLimit v.toNat 1 = true
      | _ => v.toNat ≤ 0xFFFF
    (inside → ∃ t, exec i s = .next t ∧
      t.eip.toNat = v.toNat ∧ spBecomes s t (s.spPlus (BitVec.ofNat 32 (s.os.width.bytes + imm))) ∧
      regsKept [.n4] s t ∧ t.eflags = s.eflags ∧ t.segs = s.segs ∧ memKept [] s t ∧ systemKept s t ∧
      t.inhibit = false ∧ t.cur = Cur.idle) ∧
    (¬inside → exec i s = .fault (.raised .gp (s.reportedCode (some 0)) { s with cur := Cur.idle }))

/-- R235–R236: RET far in real and V86 mode: the offset, then the selector above it; the new base is the selector times 16. -/
def Obligations.RetFarOutsideProtectedMode : Prop :=
  ∀ (s : State) (i : Instr) (imm : Nat) (v x : BitVec s.os.width.bits),
    (i = .retFar ∧ imm = 0 ∨ ∃ m, i = .retFarImm m ∧ imm = m.toNat) → s.mode ≠ .prot →
    s.stackRead 0 s.os.width = .ok v → s.stackRead s.os.width.bytes s.os.width = .ok x →
    (v.toNat ≤ 0xFFFF → ∃ t, exec i s = .next t ∧
      t.eip.toNat = v.toNat ∧ t.segs.cs.selector = x.extractLsb' 0 16 ∧
      t.segs.cs.cache.base.toNat = 16 * (x.extractLsb' 0 16).toNat ∧
      t.segs.cs.cache = { s.segs.cs.cache with base := t.segs.cs.cache.base } ∧ (∀ q, q ≠ .cs → t.seg q = s.seg q) ∧
      spBecomes s t (s.spPlus (BitVec.ofNat 32 (2 * s.os.width.bytes + imm))) ∧
      regsKept [.n4] s t ∧ t.eflags = s.eflags ∧ memKept [] s t ∧ systemKept s t ∧
      t.inhibit = false ∧ t.cur = Cur.idle) ∧
    (0xFFFF < v.toNat → exec i s = .fault (.raised .gp (s.reportedCode (some 0)) { s with cur := Cur.idle }))

/-- R237–R238: RET far in protected mode to the same level completes where every check passes: CS is loaded, the other segment
registers and CPL stay. -/
def Obligations.RetSameLevelCompletes : Prop :=
  ∀ (s : State) (i : Instr) (imm : Nat) (v x : BitVec s.os.width.bits) (d : Descriptor),
    (i = .retFar ∧ imm = 0 ∨ ∃ m, i = .retFarImm m ∧ imm = m.toNat) → s.mode = .prot →
    s.segs.ss.cache.inLimit (s.spPlus (BitVec.ofNat 32 s.os.width.bytes)).toNat 2 = true →
    s.stackRead 0 s.os.width = .ok v → s.stackRead s.os.width.bytes s.os.width = .ok x →
    let sel : Word := x.extractLsb' 0 16
    rpl sel = s.cpl → 4 ≤ sel.toNat → s.desc sel = some (.found d) → d.isCode = true → d.present = true →
    (if d.isConforming = true then d.dpl ≤ s.cpl else d.dpl = s.cpl) → d.inLimit v.toNat 1 = true →
    ∃ t, exec i s = .next t ∧
      t.eip.toNat = v.toNat ∧ t.segs.cs = { selector := sel, cache := d, valid := true } ∧ t.cpl = s.cpl ∧
      (∀ q, q ≠ .cs → t.seg q = s.seg q) ∧
      spBecomes s t (s.spPlus (BitVec.ofNat 32 (2 * s.os.width.bytes + imm))) ∧
      regsKept [.n4] s t ∧ t.eflags = s.eflags ∧ memKept [] s t ∧ systemKept s t ∧
      t.inhibit = false ∧ t.cur = Cur.idle

/-- R239–R241: RET far to an outer level completes where every check passes: CS, SS and the stack pointer come from the stack,
CPL becomes the RPL of the return selector, and each data-segment register stays, or is cleared where the outer level may
not use it; that its rights are read from its cache, and that any entry of its selector counts as inside the table, is the
model's reading of R241 (log 28). With a non-zero immediate RET_OUTER_IMM decides whether it is added to the new pointer (log
4); in the mixed case of R241 a register is kept or cleared. -/
def Obligations.RetOuterLevelCompletes : Prop :=
  ∀ (s : State) (i : Instr) (imm : Nat) (v x y z : BitVec s.os.width.bits) (d e : Descriptor),
    (i = .retFar ∧ imm = 0 ∨ ∃ m, i = .retFarImm m ∧ imm = m.toNat) → s.mode = .prot →
    s.segs.ss.cache.inLimit (s.spPlus (BitVec.ofNat 32 s.os.width.bytes)).toNat 2 = true →
    s.segs.ss.cache.inLimit (s.spPlus 0).toNat (4 * s.os.width.bytes + imm) = true →
    s.stackRead 0 s.os.width = .ok v → s.stackRead s.os.width.bytes s.os.width = .ok x →
    s.stackRead (2 * s.os.width.bytes + imm) s.os.width = .ok y →
    s.stackRead (3 * s.os.width.bytes + imm) s.os.width = .ok z →
    let sel : Word := x.extractLsb' 0 16
    let ssel : Word := z.extractLsb' 0 16
    s.cpl < rpl sel → 4 ≤ sel.toNat → s.desc sel = some (.found d) → d.isCode = true → d.present = true →
    (if d.isConforming = true then d.dpl ≤ s.cpl else d.dpl = rpl sel) →
    4 ≤ ssel.toNat → s.desc ssel = some (.found e) → e.isWritable = true → e.present = true → e.dpl = rpl sel →
    rpl ssel = rpl sel → d.inLimit v.toNat 1 = true →
    ∃ t, exec i s = .next t ∧
      t.eip.toNat = v.toNat ∧ t.cpl = rpl sel ∧ t.segs.cs = { selector := sel, cache := d, valid := true } ∧
      t.segs.ss = { selector := ssel, cache := e, valid := true } ∧
      (imm = 0 ∨ Config.retOuterImm = .none →
        t.regs.esp = if s.os = .s32 then y.setWidth 32
          else (s.regs.esp.extractLsb' 16 16 ++ y.extractLsb' 0 16 : BitVec 32)) ∧
      (∀ q, q ≠ .cs → q ≠ .ss →
        let g := s.seg q
        let bad := s.desc g.selector = none ∨ g.cache.isReadable = false
        let a := rpl sel ≤ g.cache.dpl
        let b := rpl g.selector ≤ g.cache.dpl
        (t.seg q = g ∨ t.seg q = { g with selector := 0, valid := false }) ∧
        (g.selector.toNat < 4 → t.seg q = g) ∧
        (4 ≤ g.selector.toNat → bad ∨ g.cache.isConforming = false ∧ ¬a ∧ ¬b →
          t.seg q = { g with selector := 0, valid := false }) ∧
        (¬bad → g.cache.isConforming = true ∨ a ∧ b → t.seg q = g)) ∧
      regsKept [.n4] s t ∧ t.eflags = s.eflags ∧ memKept [] s t ∧ systemKept s t ∧
      t.inhibit = false ∧ t.cur = Cur.idle

/-- R237, R244: no RET returns to a more privileged level: it raises #GP with the return selector. R238, R239: what else RET
far raises in protected mode once its stack images are read, each where no row before it applies: for the return selector and
its segment, for an outer level's stack selector and its segment, for the new instruction pointer. A descriptor that lies on a
faulting page raises #PF where it is read (R243; logs 13, 28). -/
def Obligations.RetInwardTraps : Prop :=
  ∀ (s : State) (i : Instr) (imm : Nat) (x : BitVec s.os.width.bits), isFarRet i imm → s.farFrame x →
    let sel : Word := x.extractLsb' 0 16
    let raised := fun (x : Exc) (c : Word) => exec i s = .fault (.raised x (some c) { s with cur := Cur.idle })
    let pageFaults := fun (c : Word) (lin : Dword) =>
      exec i s = .fault (.raised .pf (some c) { s with cr2 := lin, cur := Cur.idle })
    let outer := fun (v y z : BitVec s.os.width.bits) => s.outerFrame imm x ∧ s.stackRead 0 s.os.width = .ok v ∧
      s.stackRead (2 * s.os.width.bytes + imm) s.os.width = .ok y ∧
      s.stackRead (3 * s.os.width.bytes + imm) s.os.width = .ok z
    let bad := fun (d : Descriptor) => d.isCode = false ∨
      (if d.isConforming = true then s.cpl < d.dpl else d.dpl ≠ rpl sel)
    (rpl sel < s.cpl → raised .gp (sel &&& 0xFFFC)) ∧
    (rpl sel = s.cpl ∨ (∃ v y z, outer v y z) →
      (sel.toNat < 4 → raised .gp 0) ∧
      (4 ≤ sel.toNat → s.desc sel = none → raised .gp (sel &&& 0xFFFC)) ∧
      (∀ c lin, 4 ≤ sel.toNat → s.desc sel = some (.pageFault c lin) → pageFaults c lin) ∧
      (∀ d, 4 ≤ sel.toNat → s.desc sel = some (.found d) →
        (bad d → raised .gp (sel &&& 0xFFFC)) ∧ (¬bad d → d.present = false → raised .np (sel &&& 0xFFFC)))) ∧
    (∀ v d, rpl sel = s.cpl → 4 ≤ sel.toNat → s.desc sel = some (.found d) → ¬bad d → d.present = true →
      s.stackRead 0 s.os.width = .ok v → d.inLimit v.toNat 1 = false → raised .gp 0) ∧
    (∀ v y z d, outer v y z → 4 ≤ sel.toNat → s.desc sel = some (.found d) → ¬bad d → d.present = true →
      let ssel : Word := z.extractLsb' 0 16
      (ssel.toNat < 4 → raised .gp 0) ∧
      (4 ≤ ssel.toNat → s.desc ssel = none → raised .gp (ssel &&& 0xFFFC)) ∧
      (∀ c lin, 4 ≤ ssel.toNat → s.desc ssel = some (.pageFault c lin) → pageFaults c lin) ∧
      (∀ e, 4 ≤ ssel.toNat → s.desc ssel = some (.found e) →
        let badStack := e.isWritable = false ∨ rpl ssel ≠ rpl sel ∨ e.dpl ≠ rpl sel
        (badStack → raised .gp (ssel &&& 0xFFFC)) ∧
        (¬badStack → e.present = false → raised .ss (ssel &&& 0xFFFC)) ∧
        (¬badStack → e.present = true → d.inLimit v.toNat 1 = false → raised .gp 0)))

/-! ## Flag instructions (43_flag_control) -/

/-- R260: SAHF: SF, ZF, AF, PF, CF from bits 7, 6, 4, 2, 0 of AH; nothing else changes. -/
def Obligations.SahfCompletes : Prop :=
  ∀ (s : State), ∃ t, exec .sahf s = .next t ∧
    flag t.eflags .sf = s.regs.eax.getLsbD 15 ∧ flag t.eflags .zf = s.regs.eax.getLsbD 14 ∧
    flag t.eflags .af = s.regs.eax.getLsbD 12 ∧ flag t.eflags .pf = s.regs.eax.getLsbD 10 ∧
    flag t.eflags .cf = s.regs.eax.getLsbD 8 ∧ flagsKept [.sf, .zf, .af, .pf, .cf] s t ∧
    t.regs = s.regs ∧ t.segs = s.segs ∧ memKept [] s t ∧ systemKept s t ∧ completed s t

/-- R261: SETcc completes where its byte may be written: it becomes 1 where the condition holds, 0 where it does not; no flag
changes. -/
def Obligations.SetccCompletes : Prop :=
  ∀ (s : State) (c : Cond) (rm : RM) (ws : List Nat),
    Memory.wf s.mem = true → s.slot .byte rm = .ok ws →
    ∃ t, exec (setInstr c rm) s = .next t ∧
      operandIs s t .byte rm ws (if c.holds s.eflags then (1 : BitVec 8) else (0 : BitVec 8)) ∧
      t.eflags = s.eflags ∧ t.segs = s.segs ∧ systemKept s t ∧ completed s t

/-- R262: the condition of each SETcc name, each odd one being the negation of the even one before it; after a subtraction the
below and above conditions are the unsigned comparisons of its operands, the less and greater conditions the signed ones,
equality their equality. -/
def Obligations.ConditionsCompare : Prop :=
  (∀ f, (Cond.o.holds f = true ↔ flag f .of = true) ∧ (Cond.b.holds f = true ↔ flag f .cf = true) ∧
    (Cond.e.holds f = true ↔ flag f .zf = true) ∧ (Cond.be.holds f = true ↔ flag f .cf = true ∨ flag f .zf = true) ∧
    (Cond.s.holds f = true ↔ flag f .sf = true) ∧ (Cond.p.holds f = true ↔ flag f .pf = true) ∧
    (Cond.l.holds f = true ↔ flag f .sf ≠ flag f .of) ∧
    (Cond.le.holds f = true ↔ flag f .zf = true ∨ flag f .sf ≠ flag f .of)) ∧
  (∀ f, Cond.no.holds f = !Cond.o.holds f ∧ Cond.nb.holds f = !Cond.b.holds f ∧ Cond.ne.holds f = !Cond.e.holds f ∧
    Cond.nbe.holds f = !Cond.be.holds f ∧ Cond.ns.holds f = !Cond.s.holds f ∧ Cond.np.holds f = !Cond.p.holds f ∧
    Cond.nl.holds f = !Cond.l.holds f ∧ Cond.nle.holds f = !Cond.le.holds f) ∧
  ∀ (w : Width) (a b : BitVec w.bits) (f : Dword), subStatus f a b false →
    (Cond.b.holds f = true ↔ a.toNat < b.toNat) ∧ (Cond.be.holds f = true ↔ a.toNat ≤ b.toNat) ∧
    (Cond.e.holds f = true ↔ a = b) ∧ (Cond.l.holds f = true ↔ a.toInt < b.toInt) ∧
    (Cond.le.holds f = true ↔ a.toInt ≤ b.toInt)

/-- R263, R264: STC sets CF, STD sets DF; every other flag and all else stay; neither raises anything in any mode. -/
def Obligations.StcStdComplete : Prop :=
  ∀ (s : State) (i : Instr) (x : Flag), (i, x) ∈ [(Instr.stc, Flag.cf), (Instr.std, Flag.df)] →
    ∃ t, exec i s = .next t ∧ flag t.eflags x = true ∧ flagsKept [x] s t ∧
      t.regs = s.regs ∧ t.segs = s.segs ∧ memKept [] s t ∧ systemKept s t ∧ completed s t

/-- R265–R267: STI, where the mode and the level allow it, sets IF, and the inhibit is armed exactly when IF was 0; elsewhere it
raises #GP(0) and IF is as it was. -/
def Obligations.StiCompletes : Prop :=
  ∀ (s : State),
    (s.mode = .real ∨ s.cpl ≤ s.iopl →
      ∃ t, exec .sti s = .next t ∧ flag t.eflags .fi = true ∧ flagsKept [.fi] s t ∧
        (t.inhibit = true ↔ flag s.eflags .fi = false) ∧ t.eip = s.cur.next ∧ t.cur = Cur.idle ∧
        t.regs = s.regs ∧ t.segs = s.segs ∧ memKept [] s t ∧ systemKept s t) ∧
    (s.mode ≠ .real → s.iopl < s.cpl → exec .sti s = .fault (.raised .gp (some 0) { s with cur := Cur.idle }))

/-! ## Arithmetic and logic (44_arith_logic) -/

/-- R281, R283–R286, R293–R296: SUB and SBB in their four forms complete where the source is readable and the destination may be
modified: the destination becomes the difference (less CF for SBB) modulo 2^n, the status flags are those of the exact
difference; nothing else changes. -/
def Obligations.SubtractionsComplete : Prop :=
  ∀ (s : State) (borrow w : Bool) (f : ArithForm) (a b : BitVec (opWidth w s.os).bits) (ws : List Nat),
    Memory.wf s.mem = true → f.src s (opWidth w s.os) = .ok b → s.target (opWidth w s.os) f.dst = .ok (a, ws) →
    ws.Nodup →
    let c := borrow && flag s.eflags .cf
    ∃ t, exec (if borrow then sbbInstr w f else subInstr w f) s = .next t ∧
      operandIs s t (opWidth w s.os) f.dst ws (BitVec.ofInt _ (a.toInt - b.toInt - c.toNat)) ∧
      subStatus t.eflags a b c ∧ flagsKept statusFlags s t ∧
      t.segs = s.segs ∧ systemKept s t ∧ completed s t

/-- R298–R301, R303: XOR in its four forms: each bit of the destination is the exclusive or; CF and OF are 0, SF, ZF and PF are
the result's, AF is free. -/
def Obligations.XorCompletes : Prop :=
  ∀ (s : State) (w : Bool) (f : ArithForm) (a b : BitVec (opWidth w s.os).bits) (ws : List Nat),
    Memory.wf s.mem = true → f.src s (opWidth w s.os) = .ok b → s.target (opWidth w s.os) f.dst = .ok (a, ws) →
    ws.Nodup →
    ∃ (t : State) (r : BitVec (opWidth w s.os).bits), exec (xorInstr w f) s = .next t ∧
      (∀ i, r.getLsbD i = (a.getLsbD i != b.getLsbD i)) ∧ operandIs s t (opWidth w s.os) f.dst ws r ∧
      logicStatus t.eflags r ∧ flagsKept statusFlags s t ∧ t.segs = s.segs ∧ systemKept s t ∧ completed s t

/-- R288–R290, R292: TEST in its three forms sets the flags of the bitwise and, AF free, and writes no operand. -/
def Obligations.TestCompletes : Prop :=
  ∀ (s : State) (w : Bool) (f : TestForm) (a : BitVec (opWidth w s.os).bits),
    s.rmRead (opWidth w s.os) f.left = .ok a →
    ∃ (t : State) (r : BitVec (opWidth w s.os).bits), exec (testInstr w f) s = .next t ∧
      (∀ i, r.getLsbD i = (a.getLsbD i && (f.right s (opWidth w s.os)).getLsbD i)) ∧
      logicStatus t.eflags r ∧ flagsKept statusFlags s t ∧
      t.regs = s.regs ∧ t.segs = s.segs ∧ memKept [] s t ∧ systemKept s t ∧ completed s t

/-! ## Strings (45_string) -/

/-- R310–R313: SCAS without a repeat prefix completes where its element is readable: the status flags of the accumulator minus
the element; (E)DI moves by the element, down when DF is set. -/
def Obligations.ScasCompletes : Prop :=
  ∀ (s : State) (w : Width) (b : BitVec w.bits), s.cur.rep = none → s.memRead .es s.strIndex.toNat w = .ok b →
    ∃ t, exec (scasInstr w) s = .next t ∧ subStatus t.eflags (s.reg w .n0) b false ∧ flagsKept statusFlags s t ∧
      t.regs.edi = movedBy s.as s.regs.edi (stride s w) ∧ regsKept [.n7] s t ∧
      t.segs = s.segs ∧ memKept [] s t ∧ systemKept s t ∧ completed s t

/-- R310, R315, R319, R320: STOS without a repeat prefix completes where its element may be written: the accumulator is stored;
(E)DI moves by the element; no flag changes. -/
def Obligations.StosCompletes : Prop :=
  ∀ (s : State) (w : Width) (ps : List Nat), s.cur.rep = none → Memory.wf s.mem = true →
    s.access .es s.strIndex.toNat w.bytes .write = .ok ps → ps.Nodup →
    ∃ t, exec (stosInstr w) s = .next t ∧ ps.map (Memory.get t.mem) = bytesOf w (s.reg w .n0) ∧ memKept ps s t ∧
      t.regs.edi = movedBy s.as s.regs.edi (stride s w) ∧ regsKept [.n7] s t ∧
      t.eflags = s.eflags ∧ t.segs = s.segs ∧ systemKept s t ∧ completed s t

/-- R316–R318, R322: a repeated string instruction: with the count 0 it only ends; otherwise it does what the plain instruction
does, counts (E)CX down, and ends where the count has become 0 or the prefix's test holds, EIP staying at the instruction
where it goes on; where the plain instruction raises, so does it, with (E)CX and (E)DI as they were, and where it is refused
so is it. That a repetition that goes on keeps the interrupt inhibit is the model's (log 32); F2h before STOS, which R318
refuses, is refused by the step before `exec` (log 37). -/
def Obligations.RepeatedStringSteps : Prop :=
  ∀ (s : State) (w : Width) (r : Rep) (i : Instr), s.cur.rep = some r → i = scasInstr w ∨ i = stosInstr w →
    let plain : State := { s with cur := { s.cur with rep := none } }
    let count := fun (g : State) => match s.as with
      | .s32 => g.regs.ecx.toNat
      | .s16 => (g.regs.ecx.extractLsb' 0 16).toNat
    (count s = 0 → ∃ t, exec i s = .next t ∧ nothingElse s t ∧ completed s t) ∧
    (count s ≠ 0 → ∀ u, exec i plain = .next u →
      ∃ t, exec i s = .next t ∧
        t.regs.ecx = movedBy s.as s.regs.ecx (-1) ∧ count t + 1 = count s ∧
        t.regs.edi = u.regs.edi ∧ regsKept [.n1, .n7] s t ∧ t.eflags = u.eflags ∧ t.mem = u.mem ∧
        t.segs = s.segs ∧ systemKept s t ∧ t.cur = Cur.idle ∧
        let ends := count t = 0 ∨ i = scasInstr w ∧ flag t.eflags .zf = (r == .repne)
        (ends → t.eip = s.cur.next ∧ t.inhibit = false) ∧ (¬ends → t.eip = s.eip ∧ t.inhibit = s.inhibit)) ∧
    (count s ≠ 0 → ∀ x code a, exec i plain = .fault (.raised x code a) → exec i s = .fault (.raised x code a)) ∧
    (count s ≠ 0 → ∀ q, exec i plain = .refused q → exec i s = .refused q)

/-! ## System stores and segment checks (46_system_store) -/

/-- R331–R333, 60_exceptions R424: SGDT and SIDT complete where the two bytes of the limit and the four of the base may be
written, each an access of its own: the limit, then the base, whose top byte is 0 where the register's is and free otherwise.
That the base's offset does not wrap at the address size is the model's choice (log 47). -/
def Obligations.TableStoresComplete : Prop :=
  ∀ (s : State) (i : Instr) (g : TableReg) (m : Mem) (ps qs : List Nat),
    (i = .sgdt (.mem m) ∧ g = s.gdtr ∨ i = .sidt (.mem m) ∧ g = s.idtr) → Memory.wf s.mem = true →
    s.access (s.memSeg m) (s.ea m).toNat 2 .write = .ok ps →
    s.access (s.memSeg m) ((s.ea m).toNat + 2) 4 .write = .ok qs → (ps ++ qs).Nodup →
    ∃ (t : State) (top : Byte), exec i s = .next t ∧
      ps.map (Memory.get t.mem) = bytesOf .word g.limit ∧
      qs.map (Memory.get t.mem) = [g.base.extractLsb' 0 8, g.base.extractLsb' 8 8, g.base.extractLsb' 16 8, top] ∧
      (g.base.extractLsb' 24 8 = 0 → top = 0) ∧ memKept (ps ++ qs) s t ∧
      t.regs = s.regs ∧ t.eflags = s.eflags ∧ t.segs = s.segs ∧ systemKept s t ∧ completed s t

/-- R129, R130, R334, R336, R346, R347: SLDT, STR, VERR and VERW outside protected mode, and SGDT and SIDT with a register, are
invalid opcodes: #UD without an error code. -/
def Obligations.InvalidOpcodes : Prop :=
  ∀ (s : State) (i : Instr),
    ((s.mode ≠ .prot ∧ ∃ rm, i ∈ [Instr.sldt rm, .str rm, .verr rm, .verw rm]) ∨
      ∃ r, i ∈ [Instr.sgdt (.reg r), .sidt (.reg r)]) →
    exec i s = .fault (.raised .ud none { s with cur := Cur.idle })

/-- R334–R337: SLDT and STR in protected mode, SMSW in every mode, complete where their operand may be written: two bytes of
memory whatever OS is; a 16-bit register; of a 32-bit register the low half, its upper half being free. -/
def Obligations.SystemWordStoresComplete : Prop :=
  ∀ (s : State) (i : Instr) (v : Word) (rm : RM) (ws : List Nat),
    (s.mode = .prot ∧ (i = .sldt rm ∧ v = s.ldtr.selector ∨ i = .str rm ∧ v = s.tr) ∨
      i = .smsw rm ∧ v = s.cr0.extractLsb' 0 16) →
    Memory.wf s.mem = true → s.slot .word rm = .ok ws → ws.Nodup →
    ∃ t, exec i s = .next t ∧
      (s.os = .s16 ∨ (∃ m, rm = .mem m) → operandIs s t .word rm ws v) ∧
      (∀ r, rm = .reg r → t.reg .word r = v ∧ regsKept [r] s t ∧ memKept [] s t) ∧
      t.eflags = s.eflags ∧ t.segs = s.segs ∧ systemKept s t ∧ completed s t

/-- R346–R348: VERR and VERW in protected mode complete where their operand is readable and the descriptor does not page-fault:
ZF says whether the segment may be read (written) at the less privileged of CPL and the selector's RPL, 0 for a null
selector and outside the table; no other flag and nothing else changes. -/
def Obligations.SegmentVerifications : Prop :=
  ∀ (s : State) (rm : RM) (sel : Word), s.mode = .prot → s.rmRead .word rm = .ok sel →
    (∀ c lin, s.desc sel ≠ some (.pageFault c lin)) →
    let usable := fun (p : Descriptor → Prop) => 4 ≤ sel.toNat ∧ ∃ d, s.desc sel = some (.found d) ∧ p d
    let level := fun (d : Descriptor) => s.cpl ≤ d.dpl ∧ rpl sel ≤ d.dpl
    (∃ t, exec (.verr rm) s = .next t ∧
      (flag t.eflags .zf = true ↔ usable (fun d => d.isReadable = true ∧ (d.isConforming = true ∨ level d))) ∧
      flagsKept [.zf] s t ∧ t.regs = s.regs ∧ t.segs = s.segs ∧ memKept [] s t ∧ systemKept s t ∧ completed s t) ∧
    (∃ t, exec (.verw rm) s = .next t ∧
      (flag t.eflags .zf = true ↔ usable (fun d => d.isWritable = true ∧ level d)) ∧
      flagsKept [.zf] s t ∧ t.regs = s.regs ∧ t.segs = s.segs ∧ memKept [] s t ∧ systemKept s t ∧ completed s t)

/-! ## WAIT, XCHG, XLATB (47_wait_xchg_xlat) -/

/-- R360, 20_memory R96: one step of WAIT: TS before ERROR before BUSY; while BUSY is active it holds, EIP at the WAIT byte;
else it completes, no coprocessor store is pending any more, the last one issued to a byte, where the processor has not
written it meanwhile, is what memory holds there, and bytes the coprocessor has not stored to are kept. -/
def Obligations.WaitSteps : Prop :=
  ∀ (s : State),
    let ts := s.cr0.getLsbD 3
    (ts = true → exec .wait s = .fault (.raised .nm none { s with cur := Cur.idle })) ∧
    (ts = false → s.pins.error = true → exec .wait s = .fault (.raised .mf none { s with cur := Cur.idle })) ∧
    (ts = false → s.pins.error = false → s.pins.busy = true → exec .wait s = .next { s with cur := Cur.idle }) ∧
    (ts = false → s.pins.error = false → s.pins.busy = false → Memory.wf s.mem = true →
      (∀ c ∈ s.coproc, c.addr < 2 ^ 32) →
      ∃ t, exec .wait s = .next t ∧ t.coproc = [] ∧ memKept (s.coproc.map CopStore.addr) s t ∧
        (∀ before c after, s.coproc = before ++ c :: after → c.raced = false → (∀ d ∈ after, d.addr ≠ c.addr) →
          Memory.get t.mem c.addr = c.byte) ∧
        t.regs = s.regs ∧ t.eflags = s.eflags ∧ t.segs = s.segs ∧ systemKept s t ∧ completed s t)

/-- R364, R366: XCHG completes where its operand may be modified: each operand takes the other's old value; no flag changes.
20_memory R88: with memory it is indivisible for the coprocessor's stores too. That this is said byte by byte, which of the two
it is being a free choice, is the model's (log 20): of a byte with one store pending XCHG reads the old value, and the store
stays pending as it was, so that, not raced by another store, it will win over what XCHG wrote; or it reads the new one, and the
store is past. -/
def Obligations.ExchangesComplete : Prop :=
  (∀ (s : State) (w : Bool) (x r : RegNum), ∃ t, exec (.xchgRmR w (.reg x) r) s = .next t ∧
    t.reg (opWidth w s.os) x = s.reg (opWidth w s.os) r ∧ t.reg (opWidth w s.os) r = s.reg (opWidth w s.os) x ∧
    t.regs = (s.regs.write (opWidth w s.os) r (s.reg _ x)).write (opWidth w s.os) x (s.reg _ r) ∧
    t.eflags = s.eflags ∧ t.segs = s.segs ∧ memKept [] s t ∧ systemKept s t ∧ completed s t) ∧
  (∀ (s : State) (w : Bool) (m : Mem) (r : RegNum) (a : BitVec (opWidth w s.os).bits) (ws : List Nat),
    Memory.wf s.mem = true → s.target (opWidth w s.os) (.mem m) = .ok (a, ws) → ws.Nodup →
    ∃ t, exec (.xchgRmR w (.mem m) r) s = .next t ∧ t.regs = s.regs.write (opWidth w s.os) r a ∧
      ws.map (Memory.get t.mem) = bytesOf (opWidth w s.os) (s.reg _ r) ∧ memKept ws s t ∧
      t.eflags = s.eflags ∧ t.segs = s.segs ∧ systemKept s t ∧ completed s t) ∧
  (∀ (s t : State) (w : Bool) (m : Mem) (r : RegNum) (ws : List Nat),
    s.accessRmw (s.memSeg m) (s.ea m).toNat (opWidth w s.os).bytes = .ok (ws, ws) → exec (.xchgRmR w (.mem m) r) s = .next t →
    ∀ (before : List CopStore) (c : CopStore) (after : List CopStore), s.coproc = before ++ c :: after →
      (∀ d ∈ before ++ after, d.addr ≠ c.addr) →
      (c.addr ∉ ws → c ∈ t.coproc) ∧
      ∀ j : Nat, ws[j]? = some c.addr →
        let byteRead := (bytesOf (opWidth w s.os) (t.reg _ r))[j]?
        (byteRead = some (Memory.get s.mem c.addr) ∧ c ∈ t.coproc) ∨
          byteRead = some c.byte ∧ ∀ d ∈ t.coproc, d.addr ≠ c.addr) ∧
  (∀ (s : State) (r : RegNum), ∃ t, exec (.xchgAccR r) s = .next t ∧
    t.reg s.os.width .n0 = s.reg s.os.width r ∧ t.reg s.os.width r = s.reg s.os.width .n0 ∧
    (r = .n0 → t.regs = s.regs) ∧ regsKept [.n0, r] s t ∧
    (s.os = .s16 → ∀ q, (t.regs.get q).extractLsb' 16 16 = (s.regs.get q).extractLsb' 16 16) ∧
    t.eflags = s.eflags ∧ t.segs = s.segs ∧ memKept [] s t ∧ systemKept s t ∧ completed s t)

/-- R370: XLATB completes where its byte is readable: AL takes the byte at (E)BX plus AL unsigned, in DS unless overridden; the
rest of EAX and every flag are kept. -/
def Obligations.XlatbCompletes : Prop :=
  ∀ (s : State) (b : Byte),
    let off := match s.as with
      | .s32 => (s.regs.ebx.toNat + s.regs.eax.toNat % 256) % 2 ^ 32
      | .s16 => (s.regs.ebx.toNat + s.regs.eax.toNat % 256) % 2 ^ 16
    s.memRead (s.cur.seg.getD .ds) off .byte = .ok b →
    ∃ t, exec .xlatb s = .next t ∧ t.regs.eax = (s.regs.eax.extractLsb' 8 24 ++ b : BitVec 32) ∧ regsKept [.n0] s t ∧
      t.eflags = s.eflags ∧ t.segs = s.segs ∧ memKept [] s t ∧ systemKept s t ∧ completed s t

/-! ## Prefixes (30_encoding R111) -/

/-- R111: a prefix byte is always accepted and changes nothing but what is known of the instruction being decoded: its
size attributes, its segment, its repetition (the first of a group counts: log 23), its lock. R124: the default size is 16
in real and V86 mode and the D bit of CS in protected mode; 66h makes OS, 67h makes AS the other size. -/
def Obligations.PrefixesComplete : Prop :=
  ∀ (s : State),
    let c : Cur := { s.cur with len := s.cur.len + 1 }
    exec .opSizePfx s = .next { s with cur := { c with os := true } } ∧
    exec .addrSizePfx s = .next { s with cur := { c with as := true } } ∧
    exec .lockPfx s = .next { s with cur := { c with lock := true } } ∧
    (∀ i r, (i, r) ∈ [(Instr.csPfx, SReg.cs), (.ssPfx, .ss), (.dsPfx, .ds), (.esPfx, .es), (.fsPfx, .fs), (.gsPfx, .gs)] →
      exec i s = .next { s with cur := { c with seg := some (s.cur.seg.getD r) } }) ∧
    (∀ i r, (i, r) ∈ [(Instr.repPfx, Rep.rep), (.repnePfx, .repne)] →
      exec i s = .next { s with cur := { c with rep := some (s.cur.rep.getD r) } }) ∧
    s.defaultSize = (if s.mode = .prot ∧ s.segs.cs.cache.big = true then .s32 else .s16) ∧
    (s.cur.os = false → s.os = s.defaultSize) ∧ (s.cur.os = true → s.os ≠ s.defaultSize) ∧
    (s.cur.as = false → s.as = s.defaultSize) ∧ (s.cur.as = true → s.as ≠ s.defaultSize)

/-! ## The whole machine -/

/-- The invariant holds after reset: the model's own reset values among them (logs 8 to 12). -/
def Obligations.ResetKeepsInvariant : Prop := Inv State.reset

/-- Every step from a state with the invariant leaves one: memory in canonical form, the reserved flags as they read, CS a code
segment and SS a writable data segment of the current level in protected mode, no instruction half decoded. -/
def Obligations.StepKeepsInvariant : Prop := ∀ (s t : State), Inv s → step s = .next t → Inv t

/-- 10_state R44, R45, R47–R50, 40_stack R160: no step changes the mode, CR0, CR2 (a page fault alone writes it), GDTR, IDTR,
LDTR, TR, or the flags RF and VM; the mode is the function of CR0.PE and VM that R44 says. -/
def Obligations.ModeAndSystemRegistersStay : Prop :=
  (∀ (s : State), s.mode = if s.cr0.getLsbD 0 = false then .real else if flag s.eflags .vm = true then .v86 else .prot) ∧
  ∀ (s t : State), step s = .next t →
    t.mode = s.mode ∧ t.cr0 = s.cr0 ∧ t.cr2 = s.cr2 ∧ t.gdtr = s.gdtr ∧ t.idtr = s.idtr ∧ t.ldtr = s.ldtr ∧ t.tr = s.tr ∧
      flag t.eflags .rf = flag s.eflags .rf ∧ flag t.eflags .vm = flag s.eflags .vm

/-- 10_state R43, 60_exceptions R432, 42_ret R244: no step makes the machine more privileged; only a far RET changes CS, and only
a far RET or a POP of it another segment register. -/
def Obligations.PrivilegeOnlyGoesOutward : Prop :=
  (∀ (s t : State), step s = .next t → s.cpl ≤ t.cpl) ∧
  ∀ (s t : State) (i : Instr), exec i s = .next t → ∀ r, r ∉ writtenSegs i → t.seg r = s.seg r

/-- 10_state R56, R30–R38: no instruction changes a flag that is not among those it writes. -/
def Obligations.OnlyFlagWritersChangeFlags : Prop :=
  ∀ (s t : State) (i : Instr), exec i s = .next t →
    ∀ b, b ∉ writtenBits i → t.eflags.getLsbD b = s.eflags.getLsbD b

/-- 10_state R37, R38, 60_exceptions R431: outside real mode IOPL changes only at level 0 in protected mode, and IF only where
CPL is at most IOPL. -/
def Obligations.IoplAndIfNeedPrivilege : Prop :=
  ∀ (s t : State), step s = .next t → s.mode ≠ .real →
    (iopl t.eflags ≠ iopl s.eflags → s.mode = .prot ∧ s.cpl = 0) ∧
    (flag t.eflags .fi ≠ flag s.eflags .fi → s.cpl ≤ s.iopl)

/-- 10_state R27, R52, 60_exceptions R421: an instruction that completes leaves EIP at the next one, but for RET, a WAIT that
holds and a repetition that goes on, which leave it at itself; only STI and POP SS leave the interrupt inhibit set, but where
an instruction holding or going on keeps it, which is the model's reading of R52 (log 32). `next` is what StepRunsInstruction
says it is. -/
def Obligations.WhereEipGoes : Prop :=
  ∀ (s t : State) (i : Instr), exec i s = .next t → isPfx i = false →
    t.cur = Cur.idle ∧
    (i ∉ [Instr.retNear, .retFar] → (∀ m, i ≠ .retNearImm m ∧ i ≠ .retFarImm m) →
      t.eip = s.cur.next ∨ t.eip = s.eip ∧ t.inhibit = s.inhibit ∧
        (i = .wait ∧ s.pins.busy = true ∨ s.cur.rep ≠ none ∧ ∃ w, i = scasInstr w ∨ i = stosInstr w)) ∧
    (t.inhibit = true → i = .sti ∨ i = .popSs ∨ s.inhibit = true ∧ t.eip = s.eip)
end

