-- ==== Sys2Proof/Laws/State.lean ====
section
/-! SUPPORT. What each update of the state leaves in each of its fields. -/

namespace Sys2Proof.Machine

@[simp] theorem State.advance_regs (s : State) : s.advance.regs = s.regs := rfl
@[simp] theorem State.advance_eip (s : State) : s.advance.eip = s.cur.next := rfl
@[simp] theorem State.advance_eflags (s : State) : s.advance.eflags = s.eflags := rfl
@[simp] theorem State.advance_segs (s : State) : s.advance.segs = s.segs := rfl
@[simp] theorem State.advance_cr0 (s : State) : s.advance.cr0 = s.cr0 := rfl
@[simp] theorem State.advance_cr2 (s : State) : s.advance.cr2 = s.cr2 := rfl
@[simp] theorem State.advance_gdtr (s : State) : s.advance.gdtr = s.gdtr := rfl
@[simp] theorem State.advance_idtr (s : State) : s.advance.idtr = s.idtr := rfl
@[simp] theorem State.advance_ldtr (s : State) : s.advance.ldtr = s.ldtr := rfl
@[simp] theorem State.advance_tr (s : State) : s.advance.tr = s.tr := rfl
@[simp] theorem State.advance_inhibit (s : State) : s.advance.inhibit = false := rfl
@[simp] theorem State.advance_pins (s : State) : s.advance.pins = s.pins := rfl
@[simp] theorem State.advance_inputs (s : State) : s.advance.inputs = s.inputs := rfl
@[simp] theorem State.advance_coproc (s : State) : s.advance.coproc = s.coproc := rfl
@[simp] theorem State.advance_mem (s : State) : s.advance.mem = s.mem := rfl
@[simp] theorem State.advance_populated (s : State) : s.advance.populated = s.populated := rfl
@[simp] theorem State.advance_descs (s : State) : s.advance.descs = s.descs := rfl
@[simp] theorem State.advance_pages (s : State) : s.advance.pages = s.pages := rfl
@[simp] theorem State.advance_stale (s : State) : s.advance.stale = s.stale := rfl
@[simp] theorem State.advance_draws (s : State) : s.advance.draws = s.draws := rfl
@[simp] theorem State.advance_cur (s : State) : s.advance.cur = Cur.idle := rfl

@[simp] theorem State.jump_regs (s : State) (t : Dword) : (s.jump t).regs = s.regs := rfl
@[simp] theorem State.jump_eip (s : State) (t : Dword) : (s.jump t).eip = t := rfl
@[simp] theorem State.jump_eflags (s : State) (t : Dword) : (s.jump t).eflags = s.eflags := rfl
@[simp] theorem State.jump_segs (s : State) (t : Dword) : (s.jump t).segs = s.segs := rfl
@[simp] theorem State.jump_cr0 (s : State) (t : Dword) : (s.jump t).cr0 = s.cr0 := rfl
@[simp] theorem State.jump_cr2 (s : State) (t : Dword) : (s.jump t).cr2 = s.cr2 := rfl
@[simp] theorem State.jump_gdtr (s : State) (t : Dword) : (s.jump t).gdtr = s.gdtr := rfl
@[simp] theorem State.jump_idtr (s : State) (t : Dword) : (s.jump t).idtr = s.idtr := rfl
@[simp] theorem State.jump_ldtr (s : State) (t : Dword) : (s.jump t).ldtr = s.ldtr := rfl
@[simp] theorem State.jump_tr (s : State) (t : Dword) : (s.jump t).tr = s.tr := rfl
@[simp] theorem State.jump_inhibit (s : State) (t : Dword) : (s.jump t).inhibit = false := rfl
@[simp] theorem State.jump_pins (s : State) (t : Dword) : (s.jump t).pins = s.pins := rfl
@[simp] theorem State.jump_inputs (s : State) (t : Dword) : (s.jump t).inputs = s.inputs := rfl
@[simp] theorem State.jump_coproc (s : State) (t : Dword) : (s.jump t).coproc = s.coproc := rfl
@[simp] theorem State.jump_mem (s : State) (t : Dword) : (s.jump t).mem = s.mem := rfl
@[simp] theorem State.jump_populated (s : State) (t : Dword) : (s.jump t).populated = s.populated := rfl
@[simp] theorem State.jump_descs (s : State) (t : Dword) : (s.jump t).descs = s.descs := rfl
@[simp] theorem State.jump_pages (s : State) (t : Dword) : (s.jump t).pages = s.pages := rfl
@[simp] theorem State.jump_stale (s : State) (t : Dword) : (s.jump t).stale = [] := rfl
@[simp] theorem State.jump_draws (s : State) (t : Dword) : (s.jump t).draws = s.draws := rfl
@[simp] theorem State.jump_cur (s : State) (t : Dword) : (s.jump t).cur = Cur.idle := rfl

@[simp] theorem State.stay_regs (s : State) : s.stay.regs = s.regs := rfl
@[simp] theorem State.stay_eip (s : State) : s.stay.eip = s.eip := rfl
@[simp] theorem State.stay_eflags (s : State) : s.stay.eflags = s.eflags := rfl
@[simp] theorem State.stay_segs (s : State) : s.stay.segs = s.segs := rfl
@[simp] theorem State.stay_cr0 (s : State) : s.stay.cr0 = s.cr0 := rfl
@[simp] theorem State.stay_cr2 (s : State) : s.stay.cr2 = s.cr2 := rfl
@[simp] theorem State.stay_gdtr (s : State) : s.stay.gdtr = s.gdtr := rfl
@[simp] theorem State.stay_idtr (s : State) : s.stay.idtr = s.idtr := rfl
@[simp] theorem State.stay_ldtr (s : State) : s.stay.ldtr = s.ldtr := rfl
@[simp] theorem State.stay_tr (s : State) : s.stay.tr = s.tr := rfl
@[simp] theorem State.stay_inhibit (s : State) : s.stay.inhibit = s.inhibit := rfl
@[simp] theorem State.stay_pins (s : State) : s.stay.pins = s.pins := rfl
@[simp] theorem State.stay_inputs (s : State) : s.stay.inputs = s.inputs := rfl
@[simp] theorem State.stay_coproc (s : State) : s.stay.coproc = s.coproc := rfl
@[simp] theorem State.stay_mem (s : State) : s.stay.mem = s.mem := rfl
@[simp] theorem State.stay_populated (s : State) : s.stay.populated = s.populated := rfl
@[simp] theorem State.stay_descs (s : State) : s.stay.descs = s.descs := rfl
@[simp] theorem State.stay_pages (s : State) : s.stay.pages = s.pages := rfl
@[simp] theorem State.stay_stale (s : State) : s.stay.stale = s.stale := rfl
@[simp] theorem State.stay_draws (s : State) : s.stay.draws = s.draws := rfl
@[simp] theorem State.stay_cur (s : State) : s.stay.cur = Cur.idle := rfl

@[simp] theorem State.setSeg_regs (s : State) (r : SReg) (v : SegReg) : (s.setSeg r v).regs = s.regs := rfl
@[simp] theorem State.setSeg_eip (s : State) (r : SReg) (v : SegReg) : (s.setSeg r v).eip = s.eip := rfl
@[simp] theorem State.setSeg_eflags (s : State) (r : SReg) (v : SegReg) : (s.setSeg r v).eflags = s.eflags := rfl
@[simp] theorem State.setSeg_segs (s : State) (r : SReg) (v : SegReg) : (s.setSeg r v).segs = s.segs.set r v := rfl
@[simp] theorem State.setSeg_cr0 (s : State) (r : SReg) (v : SegReg) : (s.setSeg r v).cr0 = s.cr0 := rfl
@[simp] theorem State.setSeg_cr2 (s : State) (r : SReg) (v : SegReg) : (s.setSeg r v).cr2 = s.cr2 := rfl
@[simp] theorem State.setSeg_gdtr (s : State) (r : SReg) (v : SegReg) : (s.setSeg r v).gdtr = s.gdtr := rfl
@[simp] theorem State.setSeg_idtr (s : State) (r : SReg) (v : SegReg) : (s.setSeg r v).idtr = s.idtr := rfl
@[simp] theorem State.setSeg_ldtr (s : State) (r : SReg) (v : SegReg) : (s.setSeg r v).ldtr = s.ldtr := rfl
@[simp] theorem State.setSeg_tr (s : State) (r : SReg) (v : SegReg) : (s.setSeg r v).tr = s.tr := rfl
@[simp] theorem State.setSeg_inhibit (s : State) (r : SReg) (v : SegReg) : (s.setSeg r v).inhibit = s.inhibit := rfl
@[simp] theorem State.setSeg_pins (s : State) (r : SReg) (v : SegReg) : (s.setSeg r v).pins = s.pins := rfl
@[simp] theorem State.setSeg_inputs (s : State) (r : SReg) (v : SegReg) : (s.setSeg r v).inputs = s.inputs := rfl
@[simp] theorem State.setSeg_coproc (s : State) (r : SReg) (v : SegReg) : (s.setSeg r v).coproc = s.coproc := rfl
@[simp] theorem State.setSeg_mem (s : State) (r : SReg) (v : SegReg) : (s.setSeg r v).mem = s.mem := rfl
@[simp] theorem State.setSeg_populated (s : State) (r : SReg) (v : SegReg) : (s.setSeg r v).populated = s.populated := rfl
@[simp] theorem State.setSeg_descs (s : State) (r : SReg) (v : SegReg) : (s.setSeg r v).descs = s.descs := rfl
@[simp] theorem State.setSeg_pages (s : State) (r : SReg) (v : SegReg) : (s.setSeg r v).pages = s.pages := rfl
@[simp] theorem State.setSeg_stale (s : State) (r : SReg) (v : SegReg) : (s.setSeg r v).stale = s.stale := rfl
@[simp] theorem State.setSeg_draws (s : State) (r : SReg) (v : SegReg) : (s.setSeg r v).draws = s.draws := rfl
@[simp] theorem State.setSeg_cur (s : State) (r : SReg) (v : SegReg) : (s.setSeg r v).cur = s.cur := rfl

@[simp] theorem State.setSp_eip (s : State) (sa : OSize) (t : Dword) : (s.setSp sa t).eip = s.eip := rfl
@[simp] theorem State.setSp_eflags (s : State) (sa : OSize) (t : Dword) : (s.setSp sa t).eflags = s.eflags := rfl
@[simp] theorem State.setSp_segs (s : State) (sa : OSize) (t : Dword) : (s.setSp sa t).segs = s.segs := rfl
@[simp] theorem State.setSp_cr0 (s : State) (sa : OSize) (t : Dword) : (s.setSp sa t).cr0 = s.cr0 := rfl
@[simp] theorem State.setSp_cr2 (s : State) (sa : OSize) (t : Dword) : (s.setSp sa t).cr2 = s.cr2 := rfl
@[simp] theorem State.setSp_gdtr (s : State) (sa : OSize) (t : Dword) : (s.setSp sa t).gdtr = s.gdtr := rfl
@[simp] theorem State.setSp_idtr (s : State) (sa : OSize) (t : Dword) : (s.setSp sa t).idtr = s.idtr := rfl
@[simp] theorem State.setSp_ldtr (s : State) (sa : OSize) (t : Dword) : (s.setSp sa t).ldtr = s.ldtr := rfl
@[simp] theorem State.setSp_tr (s : State) (sa : OSize) (t : Dword) : (s.setSp sa t).tr = s.tr := rfl
@[simp] theorem State.setSp_inhibit (s : State) (sa : OSize) (t : Dword) : (s.setSp sa t).inhibit = s.inhibit := rfl
@[simp] theorem State.setSp_pins (s : State) (sa : OSize) (t : Dword) : (s.setSp sa t).pins = s.pins := rfl
@[simp] theorem State.setSp_inputs (s : State) (sa : OSize) (t : Dword) : (s.setSp sa t).inputs = s.inputs := rfl
@[simp] theorem State.setSp_coproc (s : State) (sa : OSize) (t : Dword) : (s.setSp sa t).coproc = s.coproc := rfl
@[simp] theorem State.setSp_mem (s : State) (sa : OSize) (t : Dword) : (s.setSp sa t).mem = s.mem := rfl
@[simp] theorem State.setSp_populated (s : State) (sa : OSize) (t : Dword) : (s.setSp sa t).populated = s.populated := rfl
@[simp] theorem State.setSp_descs (s : State) (sa : OSize) (t : Dword) : (s.setSp sa t).descs = s.descs := rfl
@[simp] theorem State.setSp_pages (s : State) (sa : OSize) (t : Dword) : (s.setSp sa t).pages = s.pages := rfl
@[simp] theorem State.setSp_stale (s : State) (sa : OSize) (t : Dword) : (s.setSp sa t).stale = s.stale := rfl
@[simp] theorem State.setSp_draws (s : State) (sa : OSize) (t : Dword) : (s.setSp sa t).draws = s.draws := rfl
@[simp] theorem State.setSp_cur (s : State) (sa : OSize) (t : Dword) : (s.setSp sa t).cur = s.cur := rfl

@[simp] theorem State.release_eip (s : State) (b : Nat) : (s.release b).eip = s.eip := rfl
@[simp] theorem State.release_eflags (s : State) (b : Nat) : (s.release b).eflags = s.eflags := rfl
@[simp] theorem State.release_segs (s : State) (b : Nat) : (s.release b).segs = s.segs := rfl
@[simp] theorem State.release_cr0 (s : State) (b : Nat) : (s.release b).cr0 = s.cr0 := rfl
@[simp] theorem State.release_cr2 (s : State) (b : Nat) : (s.release b).cr2 = s.cr2 := rfl
@[simp] theorem State.release_gdtr (s : State) (b : Nat) : (s.release b).gdtr = s.gdtr := rfl
@[simp] theorem State.release_idtr (s : State) (b : Nat) : (s.release b).idtr = s.idtr := rfl
@[simp] theorem State.release_ldtr (s : State) (b : Nat) : (s.release b).ldtr = s.ldtr := rfl
@[simp] theorem State.release_tr (s : State) (b : Nat) : (s.release b).tr = s.tr := rfl
@[simp] theorem State.release_inhibit (s : State) (b : Nat) : (s.release b).inhibit = s.inhibit := rfl
@[simp] theorem State.release_pins (s : State) (b : Nat) : (s.release b).pins = s.pins := rfl
@[simp] theorem State.release_inputs (s : State) (b : Nat) : (s.release b).inputs = s.inputs := rfl
@[simp] theorem State.release_coproc (s : State) (b : Nat) : (s.release b).coproc = s.coproc := rfl
@[simp] theorem State.release_mem (s : State) (b : Nat) : (s.release b).mem = s.mem := rfl
@[simp] theorem State.release_populated (s : State) (b : Nat) : (s.release b).populated = s.populated := rfl
@[simp] theorem State.release_descs (s : State) (b : Nat) : (s.release b).descs = s.descs := rfl
@[simp] theorem State.release_pages (s : State) (b : Nat) : (s.release b).pages = s.pages := rfl
@[simp] theorem State.release_stale (s : State) (b : Nat) : (s.release b).stale = s.stale := rfl
@[simp] theorem State.release_draws (s : State) (b : Nat) : (s.release b).draws = s.draws := rfl
@[simp] theorem State.release_cur (s : State) (b : Nat) : (s.release b).cur = s.cur := rfl

@[simp] theorem State.setReg_regs (s : State) (w : Width) (i : RegNum) (v : BitVec w.bits) : (s.setReg w i v).regs = s.regs.write w i v := rfl
@[simp] theorem State.setReg_eip (s : State) (w : Width) (i : RegNum) (v : BitVec w.bits) : (s.setReg w i v).eip = s.eip := rfl
@[simp] theorem State.setReg_eflags (s : State) (w : Width) (i : RegNum) (v : BitVec w.bits) : (s.setReg w i v).eflags = s.eflags := rfl
@[simp] theorem State.setReg_segs (s : State) (w : Width) (i : RegNum) (v : BitVec w.bits) : (s.setReg w i v).segs = s.segs := rfl
@[simp] theorem State.setReg_cr0 (s : State) (w : Width) (i : RegNum) (v : BitVec w.bits) : (s.setReg w i v).cr0 = s.cr0 := rfl
@[simp] theorem State.setReg_cr2 (s : State) (w : Width) (i : RegNum) (v : BitVec w.bits) : (s.setReg w i v).cr2 = s.cr2 := rfl
@[simp] theorem State.setReg_gdtr (s : State) (w : Width) (i : RegNum) (v : BitVec w.bits) : (s.setReg w i v).gdtr = s.gdtr := rfl
@[simp] theorem State.setReg_idtr (s : State) (w : Width) (i : RegNum) (v : BitVec w.bits) : (s.setReg w i v).idtr = s.idtr := rfl
@[simp] theorem State.setReg_ldtr (s : State) (w : Width) (i : RegNum) (v : BitVec w.bits) : (s.setReg w i v).ldtr = s.ldtr := rfl
@[simp] theorem State.setReg_tr (s : State) (w : Width) (i : RegNum) (v : BitVec w.bits) : (s.setReg w i v).tr = s.tr := rfl
@[simp] theorem State.setReg_inhibit (s : State) (w : Width) (i : RegNum) (v : BitVec w.bits) : (s.setReg w i v).inhibit = s.inhibit := rfl
@[simp] theorem State.setReg_pins (s : State) (w : Width) (i : RegNum) (v : BitVec w.bits) : (s.setReg w i v).pins = s.pins := rfl
@[simp] theorem State.setReg_inputs (s : State) (w : Width) (i : RegNum) (v : BitVec w.bits) : (s.setReg w i v).inputs = s.inputs := rfl
@[simp] theorem State.setReg_coproc (s : State) (w : Width) (i : RegNum) (v : BitVec w.bits) : (s.setReg w i v).coproc = s.coproc := rfl
@[simp] theorem State.setReg_mem (s : State) (w : Width) (i : RegNum) (v : BitVec w.bits) : (s.setReg w i v).mem = s.mem := rfl
@[simp] theorem State.setReg_populated (s : State) (w : Width) (i : RegNum) (v : BitVec w.bits) : (s.setReg w i v).populated = s.populated := rfl
@[simp] theorem State.setReg_descs (s : State) (w : Width) (i : RegNum) (v : BitVec w.bits) : (s.setReg w i v).descs = s.descs := rfl
@[simp] theorem State.setReg_pages (s : State) (w : Width) (i : RegNum) (v : BitVec w.bits) : (s.setReg w i v).pages = s.pages := rfl
@[simp] theorem State.setReg_stale (s : State) (w : Width) (i : RegNum) (v : BitVec w.bits) : (s.setReg w i v).stale = s.stale := rfl
@[simp] theorem State.setReg_draws (s : State) (w : Width) (i : RegNum) (v : BitVec w.bits) : (s.setReg w i v).draws = s.draws := rfl
@[simp] theorem State.setReg_cur (s : State) (w : Width) (i : RegNum) (v : BitVec w.bits) : (s.setReg w i v).cur = s.cur := rfl

@[simp] theorem State.setEflags_regs (s : State) (f : Dword) : (s.setEflags f).regs = s.regs := rfl
@[simp] theorem State.setEflags_eip (s : State) (f : Dword) : (s.setEflags f).eip = s.eip := rfl
@[simp] theorem State.setEflags_eflags (s : State) (f : Dword) : (s.setEflags f).eflags = f := rfl
@[simp] theorem State.setEflags_segs (s : State) (f : Dword) : (s.setEflags f).segs = s.segs := rfl
@[simp] theorem State.setEflags_cr0 (s : State) (f : Dword) : (s.setEflags f).cr0 = s.cr0 := rfl
@[simp] theorem State.setEflags_cr2 (s : State) (f : Dword) : (s.setEflags f).cr2 = s.cr2 := rfl
@[simp] theorem State.setEflags_gdtr (s : State) (f : Dword) : (s.setEflags f).gdtr = s.gdtr := rfl
@[simp] theorem State.setEflags_idtr (s : State) (f : Dword) : (s.setEflags f).idtr = s.idtr := rfl
@[simp] theorem State.setEflags_ldtr (s : State) (f : Dword) : (s.setEflags f).ldtr = s.ldtr := rfl
@[simp] theorem State.setEflags_tr (s : State) (f : Dword) : (s.setEflags f).tr = s.tr := rfl
@[simp] theorem State.setEflags_inhibit (s : State) (f : Dword) : (s.setEflags f).inhibit = s.inhibit := rfl
@[simp] theorem State.setEflags_pins (s : State) (f : Dword) : (s.setEflags f).pins = s.pins := rfl
@[simp] theorem State.setEflags_inputs (s : State) (f : Dword) : (s.setEflags f).inputs = s.inputs := rfl
@[simp] theorem State.setEflags_coproc (s : State) (f : Dword) : (s.setEflags f).coproc = s.coproc := rfl
@[simp] theorem State.setEflags_mem (s : State) (f : Dword) : (s.setEflags f).mem = s.mem := rfl
@[simp] theorem State.setEflags_populated (s : State) (f : Dword) : (s.setEflags f).populated = s.populated := rfl
@[simp] theorem State.setEflags_descs (s : State) (f : Dword) : (s.setEflags f).descs = s.descs := rfl
@[simp] theorem State.setEflags_pages (s : State) (f : Dword) : (s.setEflags f).pages = s.pages := rfl
@[simp] theorem State.setEflags_stale (s : State) (f : Dword) : (s.setEflags f).stale = s.stale := rfl
@[simp] theorem State.setEflags_draws (s : State) (f : Dword) : (s.setEflags f).draws = s.draws := rfl
@[simp] theorem State.setEflags_cur (s : State) (f : Dword) : (s.setEflags f).cur = s.cur := rfl

@[simp] theorem State.withStatus_regs (s : State) (t : Status) : (s.withStatus t).regs = s.regs := rfl
@[simp] theorem State.withStatus_eip (s : State) (t : Status) : (s.withStatus t).eip = s.eip := rfl
@[simp] theorem State.withStatus_eflags (s : State) (t : Status) : (s.withStatus t).eflags = setStatus s.eflags t := rfl
@[simp] theorem State.withStatus_segs (s : State) (t : Status) : (s.withStatus t).segs = s.segs := rfl
@[simp] theorem State.withStatus_cr0 (s : State) (t : Status) : (s.withStatus t).cr0 = s.cr0 := rfl
@[simp] theorem State.withStatus_cr2 (s : State) (t : Status) : (s.withStatus t).cr2 = s.cr2 := rfl
@[simp] theorem State.withStatus_gdtr (s : State) (t : Status) : (s.withStatus t).gdtr = s.gdtr := rfl
@[simp] theorem State.withStatus_idtr (s : State) (t : Status) : (s.withStatus t).idtr = s.idtr := rfl
@[simp] theorem State.withStatus_ldtr (s : State) (t : Status) : (s.withStatus t).ldtr = s.ldtr := rfl
@[simp] theorem State.withStatus_tr (s : State) (t : Status) : (s.withStatus t).tr = s.tr := rfl
@[simp] theorem State.withStatus_inhibit (s : State) (t : Status) : (s.withStatus t).inhibit = s.inhibit := rfl
@[simp] theorem State.withStatus_pins (s : State) (t : Status) : (s.withStatus t).pins = s.pins := rfl
@[simp] theorem State.withStatus_inputs (s : State) (t : Status) : (s.withStatus t).inputs = s.inputs := rfl
@[simp] theorem State.withStatus_coproc (s : State) (t : Status) : (s.withStatus t).coproc = s.coproc := rfl
@[simp] theorem State.withStatus_mem (s : State) (t : Status) : (s.withStatus t).mem = s.mem := rfl
@[simp] theorem State.withStatus_populated (s : State) (t : Status) : (s.withStatus t).populated = s.populated := rfl
@[simp] theorem State.withStatus_descs (s : State) (t : Status) : (s.withStatus t).descs = s.descs := rfl
@[simp] theorem State.withStatus_pages (s : State) (t : Status) : (s.withStatus t).pages = s.pages := rfl
@[simp] theorem State.withStatus_stale (s : State) (t : Status) : (s.withStatus t).stale = s.stale := rfl
@[simp] theorem State.withStatus_draws (s : State) (t : Status) : (s.withStatus t).draws = s.draws := rfl
@[simp] theorem State.withStatus_cur (s : State) (t : Status) : (s.withStatus t).cur = s.cur := rfl

@[simp] theorem State.poke_regs (s : State) (a : Nat) (v : Byte) : (s.poke a v).regs = s.regs := rfl
@[simp] theorem State.poke_eip (s : State) (a : Nat) (v : Byte) : (s.poke a v).eip = s.eip := rfl
@[simp] theorem State.poke_eflags (s : State) (a : Nat) (v : Byte) : (s.poke a v).eflags = s.eflags := rfl
@[simp] theorem State.poke_segs (s : State) (a : Nat) (v : Byte) : (s.poke a v).segs = s.segs := rfl
@[simp] theorem State.poke_cr0 (s : State) (a : Nat) (v : Byte) : (s.poke a v).cr0 = s.cr0 := rfl
@[simp] theorem State.poke_cr2 (s : State) (a : Nat) (v : Byte) : (s.poke a v).cr2 = s.cr2 := rfl
@[simp] theorem State.poke_gdtr (s : State) (a : Nat) (v : Byte) : (s.poke a v).gdtr = s.gdtr := rfl
@[simp] theorem State.poke_idtr (s : State) (a : Nat) (v : Byte) : (s.poke a v).idtr = s.idtr := rfl
@[simp] theorem State.poke_ldtr (s : State) (a : Nat) (v : Byte) : (s.poke a v).ldtr = s.ldtr := rfl
@[simp] theorem State.poke_tr (s : State) (a : Nat) (v : Byte) : (s.poke a v).tr = s.tr := rfl
@[simp] theorem State.poke_inhibit (s : State) (a : Nat) (v : Byte) : (s.poke a v).inhibit = s.inhibit := rfl
@[simp] theorem State.poke_pins (s : State) (a : Nat) (v : Byte) : (s.poke a v).pins = s.pins := rfl
@[simp] theorem State.poke_inputs (s : State) (a : Nat) (v : Byte) : (s.poke a v).inputs = s.inputs := rfl
@[simp] theorem State.poke_coproc (s : State) (a : Nat) (v : Byte) : (s.poke a v).coproc = markRaced a s.coproc := rfl
@[simp] theorem State.poke_mem (s : State) (a : Nat) (v : Byte) : (s.poke a v).mem = Memory.set s.mem a v := rfl
@[simp] theorem State.poke_populated (s : State) (a : Nat) (v : Byte) : (s.poke a v).populated = s.populated := rfl
@[simp] theorem State.poke_descs (s : State) (a : Nat) (v : Byte) : (s.poke a v).descs = s.descs := rfl
@[simp] theorem State.poke_pages (s : State) (a : Nat) (v : Byte) : (s.poke a v).pages = s.pages := rfl
@[simp] theorem State.poke_stale (s : State) (a : Nat) (v : Byte) : (s.poke a v).stale = (a, Memory.get s.mem a) :: s.stale := rfl
@[simp] theorem State.poke_draws (s : State) (a : Nat) (v : Byte) : (s.poke a v).draws = s.draws := rfl
@[simp] theorem State.poke_cur (s : State) (a : Nat) (v : Byte) : (s.poke a v).cur = s.cur := rfl

@[simp] theorem State.begin_regs (s : State) (n : Nat) : (s.begin n).regs = s.regs := rfl
@[simp] theorem State.begin_eip (s : State) (n : Nat) : (s.begin n).eip = s.eip := rfl
@[simp] theorem State.begin_eflags (s : State) (n : Nat) : (s.begin n).eflags = s.eflags := rfl
@[simp] theorem State.begin_segs (s : State) (n : Nat) : (s.begin n).segs = s.segs := rfl
@[simp] theorem State.begin_cr0 (s : State) (n : Nat) : (s.begin n).cr0 = s.cr0 := rfl
@[simp] theorem State.begin_cr2 (s : State) (n : Nat) : (s.begin n).cr2 = s.cr2 := rfl
@[simp] theorem State.begin_gdtr (s : State) (n : Nat) : (s.begin n).gdtr = s.gdtr := rfl
@[simp] theorem State.begin_idtr (s : State) (n : Nat) : (s.begin n).idtr = s.idtr := rfl
@[simp] theorem State.begin_ldtr (s : State) (n : Nat) : (s.begin n).ldtr = s.ldtr := rfl
@[simp] theorem State.begin_tr (s : State) (n : Nat) : (s.begin n).tr = s.tr := rfl
@[simp] theorem State.begin_inhibit (s : State) (n : Nat) : (s.begin n).inhibit = s.inhibit := rfl
@[simp] theorem State.begin_pins (s : State) (n : Nat) : (s.begin n).pins = s.pins := rfl
@[simp] theorem State.begin_inputs (s : State) (n : Nat) : (s.begin n).inputs = s.inputs := rfl
@[simp] theorem State.begin_coproc (s : State) (n : Nat) : (s.begin n).coproc = s.coproc := rfl
@[simp] theorem State.begin_mem (s : State) (n : Nat) : (s.begin n).mem = s.mem := rfl
@[simp] theorem State.begin_populated (s : State) (n : Nat) : (s.begin n).populated = s.populated := rfl
@[simp] theorem State.begin_descs (s : State) (n : Nat) : (s.begin n).descs = s.descs := rfl
@[simp] theorem State.begin_pages (s : State) (n : Nat) : (s.begin n).pages = s.pages := rfl
@[simp] theorem State.begin_stale (s : State) (n : Nat) : (s.begin n).stale = s.stale := rfl
@[simp] theorem State.begin_draws (s : State) (n : Nat) : (s.begin n).draws = s.draws := rfl
@[simp] theorem State.begin_cur (s : State) (n : Nat) : (s.begin n).cur = { s.cur with next := s.eipPlus (s.cur.len + n) } := rfl

/-! ## Updates by cases or by recursion -/

@[simp] theorem State.setSp_regs (s : State) (sa : OSize) (t : Dword) :
    (s.setSp sa t).regs = { s.regs with esp := match sa with
                                                | .s32 => t
                                                | .s16 => lowWord s.regs.esp t } := rfl

@[simp] theorem State.release_regs (s : State) (b : Nat) :
    (s.release b).regs = (s.setSp s.stackSize (s.spPlus (BitVec.ofNat 32 b))).regs := rfl

@[simp] theorem State.pokes_regs (s : State) (ps : List Nat) (bs : List Byte) : (s.pokes ps bs).regs = s.regs := by
  induction ps generalizing s bs with
  | nil => rfl
  | cons p ps ih => cases bs <;> simp [State.pokes, ih]

@[simp] theorem State.pokes_eip (s : State) (ps : List Nat) (bs : List Byte) : (s.pokes ps bs).eip = s.eip := by
  induction ps generalizing s bs with
  | nil => rfl
  | cons p ps ih => cases bs <;> simp [State.pokes, ih]

@[simp] theorem State.pokes_eflags (s : State) (ps : List Nat) (bs : List Byte) : (s.pokes ps bs).eflags = s.eflags := by
  induction ps generalizing s bs with
  | nil => rfl
  | cons p ps ih => cases bs <;> simp [State.pokes, ih]

@[simp] theorem State.pokes_segs (s : State) (ps : List Nat) (bs : List Byte) : (s.pokes ps bs).segs = s.segs := by
  induction ps generalizing s bs with
  | nil => rfl
  | cons p ps ih => cases bs <;> simp [State.pokes, ih]

@[simp] theorem State.pokes_cr0 (s : State) (ps : List Nat) (bs : List Byte) : (s.pokes ps bs).cr0 = s.cr0 := by
  induction ps generalizing s bs with
  | nil => rfl
  | cons p ps ih => cases bs <;> simp [State.pokes, ih]

@[simp] theorem State.pokes_cr2 (s : State) (ps : List Nat) (bs : List Byte) : (s.pokes ps bs).cr2 = s.cr2 := by
  induction ps generalizing s bs with
  | nil => rfl
  | cons p ps ih => cases bs <;> simp [State.pokes, ih]

@[simp] theorem State.pokes_gdtr (s : State) (ps : List Nat) (bs : List Byte) : (s.pokes ps bs).gdtr = s.gdtr := by
  induction ps generalizing s bs with
  | nil => rfl
  | cons p ps ih => cases bs <;> simp [State.pokes, ih]

@[simp] theorem State.pokes_idtr (s : State) (ps : List Nat) (bs : List Byte) : (s.pokes ps bs).idtr = s.idtr := by
  induction ps generalizing s bs with
  | nil => rfl
  | cons p ps ih => cases bs <;> simp [State.pokes, ih]

@[simp] theorem State.pokes_ldtr (s : State) (ps : List Nat) (bs : List Byte) : (s.pokes ps bs).ldtr = s.ldtr := by
  induction ps generalizing s bs with
  | nil => rfl
  | cons p ps ih => cases bs <;> simp [State.pokes, ih]

@[simp] theorem State.pokes_tr (s : State) (ps : List Nat) (bs : List Byte) : (s.pokes ps bs).tr = s.tr := by
  induction ps generalizing s bs with
  | nil => rfl
  | cons p ps ih => cases bs <;> simp [State.pokes, ih]

@[simp] theorem State.pokes_inhibit (s : State) (ps : List Nat) (bs : List Byte) : (s.pokes ps bs).inhibit = s.inhibit := by
  induction ps generalizing s bs with
  | nil => rfl
  | cons p ps ih => cases bs <;> simp [State.pokes, ih]

@[simp] theorem State.pokes_pins (s : State) (ps : List Nat) (bs : List Byte) : (s.pokes ps bs).pins = s.pins := by
  induction ps generalizing s bs with
  | nil => rfl
  | cons p ps ih => cases bs <;> simp [State.pokes, ih]

@[simp] theorem State.pokes_inputs (s : State) (ps : List Nat) (bs : List Byte) : (s.pokes ps bs).inputs = s.inputs := by
  induction ps generalizing s bs with
  | nil => rfl
  | cons p ps ih => cases bs <;> simp [State.pokes, ih]

@[simp] theorem State.pokes_populated (s : State) (ps : List Nat) (bs : List Byte) : (s.pokes ps bs).populated = s.populated := by
  induction ps generalizing s bs with
  | nil => rfl
  | cons p ps ih => cases bs <;> simp [State.pokes, ih]

@[simp] theorem State.pokes_descs (s : State) (ps : List Nat) (bs : List Byte) : (s.pokes ps bs).descs = s.descs := by
  induction ps generalizing s bs with
  | nil => rfl
  | cons p ps ih => cases bs <;> simp [State.pokes, ih]

@[simp] theorem State.pokes_pages (s : State) (ps : List Nat) (bs : List Byte) : (s.pokes ps bs).pages = s.pages := by
  induction ps generalizing s bs with
  | nil => rfl
  | cons p ps ih => cases bs <;> simp [State.pokes, ih]

@[simp] theorem State.pokes_draws (s : State) (ps : List Nat) (bs : List Byte) : (s.pokes ps bs).draws = s.draws := by
  induction ps generalizing s bs with
  | nil => rfl
  | cons p ps ih => cases bs <;> simp [State.pokes, ih]

@[simp] theorem State.pokes_cur (s : State) (ps : List Nat) (bs : List Byte) : (s.pokes ps bs).cur = s.cur := by
  induction ps generalizing s bs with
  | nil => rfl
  | cons p ps ih => cases bs <;> simp [State.pokes, ih]

@[simp] theorem State.commitStore_regs (s : State) (c : CopStore) : (s.commitStore c).regs = s.regs := by
  unfold State.commitStore; split <;> rfl

@[simp] theorem State.commitStore_eip (s : State) (c : CopStore) : (s.commitStore c).eip = s.eip := by
  unfold State.commitStore; split <;> rfl

@[simp] theorem State.commitStore_eflags (s : State) (c : CopStore) : (s.commitStore c).eflags = s.eflags := by
  unfold State.commitStore; split <;> rfl

@[simp] theorem State.commitStore_segs (s : State) (c : CopStore) : (s.commitStore c).segs = s.segs := by
  unfold State.commitStore; split <;> rfl

@[simp] theorem State.commitStore_cr0 (s : State) (c : CopStore) : (s.commitStore c).cr0 = s.cr0 := by
  unfold State.commitStore; split <;> rfl

@[simp] theorem State.commitStore_cr2 (s : State) (c : CopStore) : (s.commitStore c).cr2 = s.cr2 := by
  unfold State.commitStore; split <;> rfl

@[simp] theorem State.commitStore_gdtr (s : State) (c : CopStore) : (s.commitStore c).gdtr = s.gdtr := by
  unfold State.commitStore; split <;> rfl

@[simp] theorem State.commitStore_idtr (s : State) (c : CopStore) : (s.commitStore c).idtr = s.idtr := by
  unfold State.commitStore; split <;> rfl

@[simp] theorem State.commitStore_ldtr (s : State) (c : CopStore) : (s.commitStore c).ldtr = s.ldtr := by
  unfold State.commitStore; split <;> rfl

@[simp] theorem State.commitStore_tr (s : State) (c : CopStore) : (s.commitStore c).tr = s.tr := by
  unfold State.commitStore; split <;> rfl

@[simp] theorem State.commitStore_inhibit (s : State) (c : CopStore) : (s.commitStore c).inhibit = s.inhibit := by
  unfold State.commitStore; split <;> rfl

@[simp] theorem State.commitStore_pins (s : State) (c : CopStore) : (s.commitStore c).pins = s.pins := by
  unfold State.commitStore; split <;> rfl

@[simp] theorem State.commitStore_inputs (s : State) (c : CopStore) : (s.commitStore c).inputs = s.inputs := by
  unfold State.commitStore; split <;> rfl

@[simp] theorem State.commitStore_coproc (s : State) (c : CopStore) : (s.commitStore c).coproc = s.coproc := by
  unfold State.commitStore; split <;> rfl

@[simp] theorem State.commitStore_populated (s : State) (c : CopStore) : (s.commitStore c).populated = s.populated := by
  unfold State.commitStore; split <;> rfl

@[simp] theorem State.commitStore_descs (s : State) (c : CopStore) : (s.commitStore c).descs = s.descs := by
  unfold State.commitStore; split <;> rfl

@[simp] theorem State.commitStore_pages (s : State) (c : CopStore) : (s.commitStore c).pages = s.pages := by
  unfold State.commitStore; split <;> rfl

@[simp] theorem State.commitStore_draws (s : State) (c : CopStore) : (s.commitStore c).draws = s.draws := by
  unfold State.commitStore; split <;> rfl

@[simp] theorem State.commitStore_cur (s : State) (c : CopStore) : (s.commitStore c).cur = s.cur := by
  unfold State.commitStore; split <;> rfl

theorem State.foldCommit_regs (cs : List CopStore) (s : State) : (cs.foldl State.commitStore s).regs = s.regs := by
  induction cs generalizing s with
  | nil => rfl
  | cons c cs ih => simp [ih]

theorem State.foldCommit_eip (cs : List CopStore) (s : State) : (cs.foldl State.commitStore s).eip = s.eip := by
  induction cs generalizing s with
  | nil => rfl
  | cons c cs ih => simp [ih]

theorem State.foldCommit_eflags (cs : List CopStore) (s : State) : (cs.foldl State.commitStore s).eflags = s.eflags := by
  induction cs generalizing s with
  | nil => rfl
  | cons c cs ih => simp [ih]

theorem State.foldCommit_segs (cs : List CopStore) (s : State) : (cs.foldl State.commitStore s).segs = s.segs := by
  induction cs generalizing s with
  | nil => rfl
  | cons c cs ih => simp [ih]

theorem State.foldCommit_cr0 (cs : List CopStore) (s : State) : (cs.foldl State.commitStore s).cr0 = s.cr0 := by
  induction cs generalizing s with
  | nil => rfl
  | cons c cs ih => simp [ih]

theorem State.foldCommit_cr2 (cs : List CopStore) (s : State) : (cs.foldl State.commitStore s).cr2 = s.cr2 := by
  induction cs generalizing s with
  | nil => rfl
  | cons c cs ih => simp [ih]

theorem State.foldCommit_gdtr (cs : List CopStore) (s : State) : (cs.foldl State.commitStore s).gdtr = s.gdtr := by
  induction cs generalizing s with
  | nil => rfl
  | cons c cs ih => simp [ih]

theorem State.foldCommit_idtr (cs : List CopStore) (s : State) : (cs.foldl State.commitStore s).idtr = s.idtr := by
  induction cs generalizing s with
  | nil => rfl
  | cons c cs ih => simp [ih]

theorem State.foldCommit_ldtr (cs : List CopStore) (s : State) : (cs.foldl State.commitStore s).ldtr = s.ldtr := by
  induction cs generalizing s with
  | nil => rfl
  | cons c cs ih => simp [ih]

theorem State.foldCommit_tr (cs : List CopStore) (s : State) : (cs.foldl State.commitStore s).tr = s.tr := by
  induction cs generalizing s with
  | nil => rfl
  | cons c cs ih => simp [ih]

theorem State.foldCommit_inhibit (cs : List CopStore) (s : State) : (cs.foldl State.commitStore s).inhibit = s.inhibit := by
  induction cs generalizing s with
  | nil => rfl
  | cons c cs ih => simp [ih]

theorem State.foldCommit_pins (cs : List CopStore) (s : State) : (cs.foldl State.commitStore s).pins = s.pins := by
  induction cs generalizing s with
  | nil => rfl
  | cons c cs ih => simp [ih]

theorem State.foldCommit_inputs (cs : List CopStore) (s : State) : (cs.foldl State.commitStore s).inputs = s.inputs := by
  induction cs generalizing s with
  | nil => rfl
  | cons c cs ih => simp [ih]

theorem State.foldCommit_coproc (cs : List CopStore) (s : State) : (cs.foldl State.commitStore s).coproc = s.coproc := by
  induction cs generalizing s with
  | nil => rfl
  | cons c cs ih => simp [ih]

theorem State.foldCommit_populated (cs : List CopStore) (s : State) : (cs.foldl State.commitStore s).populated = s.populated := by
  induction cs generalizing s with
  | nil => rfl
  | cons c cs ih => simp [ih]

theorem State.foldCommit_descs (cs : List CopStore) (s : State) : (cs.foldl State.commitStore s).descs = s.descs := by
  induction cs generalizing s with
  | nil => rfl
  | cons c cs ih => simp [ih]

theorem State.foldCommit_pages (cs : List CopStore) (s : State) : (cs.foldl State.commitStore s).pages = s.pages := by
  induction cs generalizing s with
  | nil => rfl
  | cons c cs ih => simp [ih]

theorem State.foldCommit_draws (cs : List CopStore) (s : State) : (cs.foldl State.commitStore s).draws = s.draws := by
  induction cs generalizing s with
  | nil => rfl
  | cons c cs ih => simp [ih]

theorem State.foldCommit_cur (cs : List CopStore) (s : State) : (cs.foldl State.commitStore s).cur = s.cur := by
  induction cs generalizing s with
  | nil => rfl
  | cons c cs ih => simp [ih]

@[simp] theorem State.commitStores_regs (s : State) : s.commitStores.regs = s.regs := by
  simp [State.commitStores, State.foldCommit_regs]

@[simp] theorem State.commitStores_eip (s : State) : s.commitStores.eip = s.eip := by
  simp [State.commitStores, State.foldCommit_eip]

@[simp] theorem State.commitStores_eflags (s : State) : s.commitStores.eflags = s.eflags := by
  simp [State.commitStores, State.foldCommit_eflags]

@[simp] theorem State.commitStores_segs (s : State) : s.commitStores.segs = s.segs := by
  simp [State.commitStores, State.foldCommit_segs]

@[simp] theorem State.commitStores_cr0 (s : State) : s.commitStores.cr0 = s.cr0 := by
  simp [State.commitStores, State.foldCommit_cr0]

@[simp] theorem State.commitStores_cr2 (s : State) : s.commitStores.cr2 = s.cr2 := by
  simp [State.commitStores, State.foldCommit_cr2]

@[simp] theorem State.commitStores_gdtr (s : State) : s.commitStores.gdtr = s.gdtr := by
  simp [State.commitStores, State.foldCommit_gdtr]

@[simp] theorem State.commitStores_idtr (s : State) : s.commitStores.idtr = s.idtr := by
  simp [State.commitStores, State.foldCommit_idtr]

@[simp] theorem State.commitStores_ldtr (s : State) : s.commitStores.ldtr = s.ldtr := by
  simp [State.commitStores, State.foldCommit_ldtr]

@[simp] theorem State.commitStores_tr (s : State) : s.commitStores.tr = s.tr := by
  simp [State.commitStores, State.foldCommit_tr]

@[simp] theorem State.commitStores_inhibit (s : State) : s.commitStores.inhibit = s.inhibit := by
  simp [State.commitStores, State.foldCommit_inhibit]

@[simp] theorem State.commitStores_pins (s : State) : s.commitStores.pins = s.pins := by
  simp [State.commitStores, State.foldCommit_pins]

@[simp] theorem State.commitStores_inputs (s : State) : s.commitStores.inputs = s.inputs := by
  simp [State.commitStores, State.foldCommit_inputs]

@[simp] theorem State.commitStores_populated (s : State) : s.commitStores.populated = s.populated := by
  simp [State.commitStores, State.foldCommit_populated]

@[simp] theorem State.commitStores_descs (s : State) : s.commitStores.descs = s.descs := by
  simp [State.commitStores, State.foldCommit_descs]

@[simp] theorem State.commitStores_pages (s : State) : s.commitStores.pages = s.pages := by
  simp [State.commitStores, State.foldCommit_pages]

@[simp] theorem State.commitStores_draws (s : State) : s.commitStores.draws = s.draws := by
  simp [State.commitStores, State.foldCommit_draws]

@[simp] theorem State.commitStores_cur (s : State) : s.commitStores.cur = s.cur := by
  simp [State.commitStores, State.foldCommit_cur]

@[simp] theorem State.commitStores_coproc (s : State) : s.commitStores.coproc = [] := rfl

@[simp] theorem State.sample_regs (s : State) : s.sample.regs = s.regs := by
  unfold State.sample; split <;> rfl

@[simp] theorem State.sample_eip (s : State) : s.sample.eip = s.eip := by
  unfold State.sample; split <;> rfl

@[simp] theorem State.sample_eflags (s : State) : s.sample.eflags = s.eflags := by
  unfold State.sample; split <;> rfl

@[simp] theorem State.sample_segs (s : State) : s.sample.segs = s.segs := by
  unfold State.sample; split <;> rfl

@[simp] theorem State.sample_cr0 (s : State) : s.sample.cr0 = s.cr0 := by
  unfold State.sample; split <;> rfl

@[simp] theorem State.sample_cr2 (s : State) : s.sample.cr2 = s.cr2 := by
  unfold State.sample; split <;> rfl

@[simp] theorem State.sample_gdtr (s : State) : s.sample.gdtr = s.gdtr := by
  unfold State.sample; split <;> rfl

@[simp] theorem State.sample_idtr (s : State) : s.sample.idtr = s.idtr := by
  unfold State.sample; split <;> rfl

@[simp] theorem State.sample_ldtr (s : State) : s.sample.ldtr = s.ldtr := by
  unfold State.sample; split <;> rfl

@[simp] theorem State.sample_tr (s : State) : s.sample.tr = s.tr := by
  unfold State.sample; split <;> rfl

@[simp] theorem State.sample_inhibit (s : State) : s.sample.inhibit = s.inhibit := by
  unfold State.sample; split <;> rfl

@[simp] theorem State.sample_mem (s : State) : s.sample.mem = s.mem := by
  unfold State.sample; split <;> rfl

@[simp] theorem State.sample_populated (s : State) : s.sample.populated = s.populated := by
  unfold State.sample; split <;> rfl

@[simp] theorem State.sample_descs (s : State) : s.sample.descs = s.descs := by
  unfold State.sample; split <;> rfl

@[simp] theorem State.sample_pages (s : State) : s.sample.pages = s.pages := by
  unfold State.sample; split <;> rfl

@[simp] theorem State.sample_stale (s : State) : s.sample.stale = s.stale := by
  unfold State.sample; split <;> rfl

@[simp] theorem State.sample_draws (s : State) : s.sample.draws = s.draws := by
  unfold State.sample; split <;> rfl

@[simp] theorem State.sample_cur (s : State) : s.sample.cur = s.cur := by
  unfold State.sample; split <;> rfl

/-! ## Views that no update of other fields touches -/

@[simp] theorem SegRegs.get_set_same (g : SegRegs) (r : SReg) (v : SegReg) : (g.set r v).get r = v := by
  cases r <;> rfl

theorem SegRegs.get_set_other (g : SegRegs) (r q : SReg) (v : SegReg) (h : q ≠ r) : (g.set r v).get q = g.get q := by
  cases r <;> cases q <;> first | rfl | exact absurd rfl h

@[simp] theorem Regs.get_set_same (g : Regs) (i : RegNum) (v : Dword) : (g.set i v).get i = v := by
  cases i <;> rfl

theorem Regs.get_set_other (g : Regs) (i j : RegNum) (v : Dword) (h : j ≠ i) : (g.set i v).get j = g.get j := by
  cases i <;> cases j <;> first | rfl | exact absurd rfl h

@[simp] theorem State.exchangeBytes_regs (s : State) (as : List Nat) (vs : List Byte) :
    (s.exchangeBytes as vs).regs = s.regs := s.pokes_regs as vs

@[simp] theorem State.exchangeBytes_eip (s : State) (as : List Nat) (vs : List Byte) :
    (s.exchangeBytes as vs).eip = s.eip := s.pokes_eip as vs

@[simp] theorem State.exchangeBytes_eflags (s : State) (as : List Nat) (vs : List Byte) :
    (s.exchangeBytes as vs).eflags = s.eflags := s.pokes_eflags as vs

@[simp] theorem State.exchangeBytes_segs (s : State) (as : List Nat) (vs : List Byte) :
    (s.exchangeBytes as vs).segs = s.segs := s.pokes_segs as vs

@[simp] theorem State.exchangeBytes_cr0 (s : State) (as : List Nat) (vs : List Byte) :
    (s.exchangeBytes as vs).cr0 = s.cr0 := s.pokes_cr0 as vs

@[simp] theorem State.exchangeBytes_cr2 (s : State) (as : List Nat) (vs : List Byte) :
    (s.exchangeBytes as vs).cr2 = s.cr2 := s.pokes_cr2 as vs

@[simp] theorem State.exchangeBytes_gdtr (s : State) (as : List Nat) (vs : List Byte) :
    (s.exchangeBytes as vs).gdtr = s.gdtr := s.pokes_gdtr as vs

@[simp] theorem State.exchangeBytes_idtr (s : State) (as : List Nat) (vs : List Byte) :
    (s.exchangeBytes as vs).idtr = s.idtr := s.pokes_idtr as vs

@[simp] theorem State.exchangeBytes_ldtr (s : State) (as : List Nat) (vs : List Byte) :
    (s.exchangeBytes as vs).ldtr = s.ldtr := s.pokes_ldtr as vs

@[simp] theorem State.exchangeBytes_tr (s : State) (as : List Nat) (vs : List Byte) :
    (s.exchangeBytes as vs).tr = s.tr := s.pokes_tr as vs

@[simp] theorem State.exchangeBytes_inhibit (s : State) (as : List Nat) (vs : List Byte) :
    (s.exchangeBytes as vs).inhibit = s.inhibit := s.pokes_inhibit as vs

@[simp] theorem State.exchangeBytes_pins (s : State) (as : List Nat) (vs : List Byte) :
    (s.exchangeBytes as vs).pins = s.pins := s.pokes_pins as vs

@[simp] theorem State.exchangeBytes_inputs (s : State) (as : List Nat) (vs : List Byte) :
    (s.exchangeBytes as vs).inputs = s.inputs := s.pokes_inputs as vs

@[simp] theorem State.exchangeBytes_populated (s : State) (as : List Nat) (vs : List Byte) :
    (s.exchangeBytes as vs).populated = s.populated := s.pokes_populated as vs

@[simp] theorem State.exchangeBytes_descs (s : State) (as : List Nat) (vs : List Byte) :
    (s.exchangeBytes as vs).descs = s.descs := s.pokes_descs as vs

@[simp] theorem State.exchangeBytes_pages (s : State) (as : List Nat) (vs : List Byte) :
    (s.exchangeBytes as vs).pages = s.pages := s.pokes_pages as vs

@[simp] theorem State.exchangeBytes_draws (s : State) (as : List Nat) (vs : List Byte) :
    (s.exchangeBytes as vs).draws = s.draws := s.pokes_draws as vs

@[simp] theorem State.exchangeBytes_cur (s : State) (as : List Nat) (vs : List Byte) :
    (s.exchangeBytes as vs).cur = s.cur := s.pokes_cur as vs

/-- The bytes an exchange stores are those any store of them leaves. -/
@[simp] theorem State.exchangeBytes_mem (s : State) (as : List Nat) (vs : List Byte) :
    (s.exchangeBytes as vs).mem = (s.pokes as vs).mem := rfl

end Sys2Proof.Machine
end

