-- ==== Sys2Proof/Laws/Memory.lean ====
section
/-! SUPPORT. The memory list: read after write, and the canonical form kept by every operation that writes. -/

namespace Sys2Proof.Machine

/-- A byte written leaves every other byte. -/
theorem Memory.get_set_other (m : List Host.Cell) (a b : Nat) (v : Byte) (h : b ≠ a) :
    Memory.get (Memory.set m a v) b = Memory.get m b := by
  induction m with
  | nil => by_cases hv : v = Memory.unlisted <;> simp [Memory.set, Memory.get, hv, Ne.symm h]
  | cons c rest ih =>
    obtain ⟨k, x⟩ := c
    by_cases h1 : a < k
    · by_cases hv : v = Memory.unlisted <;> simp [Memory.set, Memory.get, h1, hv, Ne.symm h]
    · by_cases h2 : a = k
      · subst h2
        by_cases hv : v = Memory.unlisted <;> simp [Memory.set, Memory.get, hv, Ne.symm h]
      · simp [Memory.set, Memory.get, h1, h2, ih]

/-- Every key of a canonical list whose head is above `a` differs from `a`. -/
theorem Memory.get_below (m : List Host.Cell) (a : Nat) (h : Memory.wf m = true)
    (hk : ∀ c ∈ m.head?, a < c.1) : Memory.get m a = Memory.unlisted := by
  induction m with
  | nil => rfl
  | cons c rest ih =>
    obtain ⟨k, x⟩ := c
    have hak : a < k := hk (k, x) (by simp)
    simp only [Memory.wf, Bool.and_eq_true] at h
    have : ∀ c ∈ rest.head?, a < c.1 := by
      intro c hc
      cases rest with
      | nil => simp at hc
      | cons d r => simp at hc; subst hc; have := h.1.2; simp at this; omega
    simp [Memory.get, Nat.ne_of_gt hak, ih h.2 this]

/-- A byte written reads back, in a canonical list. -/
theorem Memory.get_set_same (m : List Host.Cell) (a : Nat) (v : Byte) (h : Memory.wf m = true) :
    Memory.get (Memory.set m a v) a = v := by
  induction m with
  | nil => by_cases hv : v = Memory.unlisted <;> simp [Memory.set, Memory.get, hv]
  | cons c rest ih =>
    obtain ⟨k, x⟩ := c
    by_cases h1 : a < k
    · by_cases hv : v = Memory.unlisted
      · have := Memory.get_below ((k, x) :: rest) a h (by simpa using h1)
        simp [Memory.set, h1, hv, this]
      · simp [Memory.set, Memory.get, h1, hv]
    · simp only [Memory.wf, Bool.and_eq_true] at h
      by_cases h2 : a = k
      · subst h2
        by_cases hv : v = Memory.unlisted
        · have hb : ∀ c ∈ rest.head?, a < c.1 := by
            intro c hc
            cases rest with
            | nil => simp at hc
            | cons d r => simp at hc; subst hc; simpa using h.1.2
          simp [Memory.set, hv, Memory.get_below rest a h.2 hb]
        · simp [Memory.set, Memory.get, hv]
      · have : k ≠ a := fun e => h2 e.symm
        simp [Memory.set, Memory.get, h1, h2, this, ih h.2]

/-- The first key of a list with `a` written is `a` or the first key there was. -/
theorem Memory.head_set (m : List Host.Cell) (a b : Nat) (v : Byte) (hb : b < a) (hk : ∀ c ∈ m.head?, b < c.1)
    (h : Memory.wf m = true) : ∀ c ∈ (Memory.set m a v).head?, b < c.1 := by
  cases m with
  | nil => by_cases hv : v = Memory.unlisted <;> simp [Memory.set, hv, hb]
  | cons c rest =>
    obtain ⟨k, x⟩ := c
    have hbk : b < k := hk (k, x) (by simp)
    by_cases h1 : a < k
    · by_cases hv : v = Memory.unlisted <;> simp [Memory.set, h1, hv, hb, hbk]
    · by_cases h2 : a = k
      · by_cases hv : v = Memory.unlisted
        · simp only [Memory.wf, Bool.and_eq_true] at h
          cases rest with
          | nil => simp [Memory.set, h2, hv]
          | cons d r =>
            have := h.1.2
            simp at this
            simp [Memory.set, h2, hv]; omega
        · simp [Memory.set, h2, hv, hbk]
      · simp [Memory.set, h1, h2, hbk]

/-- A write keeps the canonical form. -/
theorem Memory.wf_set (m : List Host.Cell) (a : Nat) (v : Byte) (h : Memory.wf m = true) (ha : a < 2 ^ 32) :
    Memory.wf (Memory.set m a v) = true := by
  induction m with
  | nil => by_cases hv : v = Memory.unlisted <;> simp [Memory.set, Memory.wf, hv]; omega
  | cons c rest ih =>
    obtain ⟨k, x⟩ := c
    have hw := h
    simp only [Memory.wf, Bool.and_eq_true, decide_eq_true_eq, bne_iff_ne, ne_eq] at h
    obtain ⟨⟨⟨hk, hx⟩, hhd⟩, hrest⟩ := h
    by_cases h1 : a < k
    · by_cases hv : v = Memory.unlisted
      · simp [Memory.set, h1, hv]; simpa using hw
      · simp [Memory.set, h1, hv, Memory.wf, hrest, hx]
        exact ⟨by omega, by omega, hhd⟩
    · by_cases h2 : a = k
      · subst h2
        by_cases hv : v = Memory.unlisted
        · simp [Memory.set, hv, hrest]
        · simp [Memory.set, hv, Memory.wf, hrest]
          exact ⟨by omega, hhd⟩
      · have hka : k < a := by omega
        have hhead : ∀ c ∈ rest.head?, k < c.1 := by
          intro c hc
          cases rest with
          | nil => simp at hc
          | cons d r => simp at hc; subst hc; simpa using hhd
        have h4 := Memory.head_set rest a k v hka hhead hrest
        have h3 := ih hrest
        simp only [Memory.set, h1, h2, if_false, Memory.wf, Bool.and_eq_true, decide_eq_true_eq, bne_iff_ne, ne_eq]
        refine ⟨⟨⟨hk, hx⟩, ?_⟩, h3⟩
        cases hs : Memory.set rest a v with
        | nil => rfl
        | cons d r => simpa using h4 d (by simp [hs])

/-- A processor store keeps the canonical form. -/
theorem State.poke_wf (s : State) (a : Nat) (v : Byte) (h : Memory.wf s.mem = true) (ha : a < 2 ^ 32) :
    Memory.wf (s.poke a v).mem = true := Memory.wf_set _ _ _ h ha

/-- Processor stores keep the canonical form. -/
theorem State.pokes_wf (s : State) (ps : List Nat) (bs : List Byte) (h : Memory.wf s.mem = true)
    (hp : ∀ p ∈ ps, p < 2 ^ 32) : Memory.wf (s.pokes ps bs).mem = true := by
  induction ps generalizing s bs with
  | nil => exact h
  | cons p ps ih =>
    cases bs with
    | nil => exact h
    | cons b bs =>
      exact ih _ _ (s.poke_wf p b h (hp p (by simp))) (fun q hq => hp q (by simp [hq]))

/-- A coprocessor store keeps the canonical form. -/
theorem State.commitStore_wf (s : State) (c : CopStore) (h : Memory.wf s.mem = true) (ha : c.addr < 2 ^ 32) :
    Memory.wf (s.commitStore c).mem = true := by
  unfold State.commitStore
  split
  · exact h
  · exact Memory.wf_set _ _ _ h ha

/-- The coprocessor's pending stores keep the canonical form when WAIT completes. -/
theorem State.commitStores_wf (s : State) (h : Memory.wf s.mem = true) (ha : ∀ c ∈ s.coproc, c.addr < 2 ^ 32) :
    Memory.wf s.commitStores.mem = true := by
  have : ∀ (cs : List CopStore) (u : State), Memory.wf u.mem = true → (∀ c ∈ cs, c.addr < 2 ^ 32) →
      Memory.wf (cs.foldl State.commitStore u).mem = true := by
    intro cs
    induction cs with
    | nil => intro u hu _; exact hu
    | cons c cs ih =>
      intro u hu hc
      exact ih _ (u.commitStore_wf c hu (hc c (by simp))) (fun d hd => hc d (by simp [hd]))
  exact this _ _ h ha

/-- Memory after reset is in canonical form. -/
theorem reset_mem_wf : Memory.wf State.reset.mem = true := rfl

/-! ## Bytes outside and inside a store -/

/-- Bytes stored leave every other byte. -/
theorem State.pokes_get_other (s : State) (ps : List Nat) (bs : List Byte) (a : Nat) (h : a ∉ ps) :
    Memory.get (s.pokes ps bs).mem a = Memory.get s.mem a := by
  induction ps generalizing s bs with
  | nil => rfl
  | cons p ps ih =>
    simp only [List.mem_cons, not_or] at h
    cases bs with
    | nil => rfl
    | cons b bs => rw [State.pokes, ih _ _ h.2]; exact Memory.get_set_other _ _ _ _ h.1

/-- Bytes stored at distinct addresses read back. -/
theorem State.pokes_get (s : State) (ps : List Nat) (bs : List Byte) (hw : Memory.wf s.mem = true)
    (hn : ps.Nodup) (hp : ∀ p ∈ ps, p < 2 ^ 32) (hl : ps.length = bs.length) :
    ps.map (Memory.get (s.pokes ps bs).mem) = bs := by
  induction ps generalizing s bs with
  | nil => simp at hl; simp [List.eq_nil_of_length_eq_zero hl.symm]
  | cons p ps ih =>
    cases bs with
    | nil => simp at hl
    | cons b bs =>
      simp only [List.nodup_cons] at hn
      have hw' := s.poke_wf p b hw (hp p (by simp))
      simp only [State.pokes, List.map_cons, List.cons.injEq]
      refine ⟨?_, ih _ _ hw' hn.2 (fun q hq => hp q (by simp [hq])) (by simpa using hl)⟩
      rw [State.pokes_get_other _ _ _ _ hn.1]
      exact Memory.get_set_same _ _ _ hw

/-! ## Byte order -/

@[simp] theorem leBytes_length (n v : Nat) : (leBytes n v).length = n := by
  induction n generalizing v with
  | zero => rfl
  | succ n ih => simp [leBytes, ih]

/-- A number is put together again from its bytes. -/
theorem leNat_leBytes (n v : Nat) (h : v < 256 ^ n) : leNat (leBytes n v) = v := by
  induction n generalizing v with
  | zero => simp at h; simp [leBytes, leNat, h]
  | succ n ih =>
    have : v / 256 < 256 ^ n := by rw [Nat.div_lt_iff_lt_mul (by norm_num)]; rw [pow_succ] at h; omega
    simp [leBytes, leNat, ih _ this]; omega

/-- Bytes are found again in the number they make. -/
theorem leBytes_leNat (l : List Byte) : leBytes l.length (leNat l) = l := by
  induction l with
  | nil => rfl
  | cons b l ih =>
    have hb := b.isLt
    have rest : (b.toNat + 256 * leNat l) / 256 = leNat l := by omega
    have low : BitVec.ofNat 8 (b.toNat + 256 * leNat l) = b := by apply BitVec.eq_of_toNat_eq; simp; omega
    simp only [List.length_cons, leNat, leBytes]
    rw [rest, low, ih]

/-- The number some bytes make. -/
theorem leNat_lt (l : List Byte) : leNat l < 256 ^ l.length := by
  induction l with
  | nil => simp [leNat]
  | cons b l ih => have := b.isLt; simp only [leNat, List.length_cons, Nat.pow_succ]; omega

/-! ## The exchange and the coprocessor -/

/-- A read that sees no pending store gives what memory holds. -/
theorem pendingByte_unseen (d a n : Nat) (cs : List CopStore) (v : Byte) (h : anySeen d a n cs = false) :
    pendingByte d a n cs v = v := by
  induction cs generalizing n v with
  | nil => rfl
  | cons c cs ih =>
    simp only [anySeen, Bool.or_eq_false_iff, Bool.and_eq_false_iff, decide_eq_false_iff_not] at h
    rw [pendingByte, ih _ _ h.2]
    rcases h.1 with h1 | h1 <;> simp [h1]

/-- A read that sees a store issued later gives nothing of what lies under it. -/
theorem pendingByte_seen (d a n : Nat) (cs : List CopStore) (u v : Byte) (h : anySeen d a n cs = true) :
    pendingByte d a n cs u = pendingByte d a n cs v := by
  induction cs generalizing n u v with
  | nil => simp [anySeen] at h
  | cons c cs ih =>
    simp only [anySeen, Bool.or_eq_true, Bool.and_eq_true, decide_eq_true_eq] at h
    simp only [pendingByte]
    rcases h with ⟨h1, h2⟩ | h
    · simp [h1, h2]
    · exact ih _ _ _ h

/-- A store an exchange leaves pending was pending before it, just so; one it makes past is past. -/
theorem splitSeen_mem (d : Nat) (as : List Nat) (n : Nat) (cs : List CopStore) (c : CopStore) :
    c ∈ (splitSeen d as n cs).1 ∨ c ∈ (splitSeen d as n cs).2 ↔ c ∈ cs := by
  induction cs generalizing n with
  | nil => simp [splitSeen]
  | cons b cs ih => simp only [splitSeen]; split <;> simp [← ih (n + 1)] <;> tauto

/-- What an exchange leaves pending was pending before it. -/
theorem State.exchangeBytes_pending (s : State) (as : List Nat) (vs : List Byte) :
    ∀ c ∈ (s.exchangeBytes as vs).coproc, c ∈ s.coproc :=
  fun c h => (splitSeen_mem s.draws as 0 s.coproc c).1 (.inr h)

end Sys2Proof.Machine
end

