-- ==== Sys2Proof/Laws/Ops.lean ====
section
/-! SUPPORT. For each shared operation, once, everything it can do: what it answered when it answers, in the words of the
operations below it. -/

namespace Sys2Proof.Machine

/-! ## Results -/

/-- A computation in two parts answers when both do. -/
theorem Res.bind_ok {α β : Type} {x : Res α} {f : α → Res β} {r : β} :
    (x >>= f) = .ok r ↔ ∃ a, x = .ok a ∧ f a = .ok r := by
  cases x with
  | error e => simp [bind, Except.bind]
  | ok a => simp [bind, Except.bind]

/-- A computation in two parts stops where the first stops, or where the second does. -/
theorem Res.bind_error {α β : Type} {x : Res α} {f : α → Res β} {e : Stop} :
    (x >>= f) = .error e ↔ x = .error e ∨ ∃ a, x = .ok a ∧ f a = .error e := by
  cases x with
  | error e => simp [bind, Except.bind]
  | ok a => simp [bind, Except.bind]

@[simp] theorem Res.pure_ok {α : Type} (a b : α) : (pure a : Res α) = .ok b ↔ a = b := by simp [pure, Except.pure]

@[simp] theorem Res.pure_error {α : Type} (a : α) (e : Stop) : (pure a : Res α) = .error e ↔ False := by
  simp [pure, Except.pure]

/-- A guard lets through exactly where its condition does not hold. -/
theorem stopIf_ok {c : Bool} {e : Res Unit} {u : Unit} (he : ∀ u, e ≠ .ok u) : stopIf c e = .ok u ↔ c = false := by
  cases c
  · simp [stopIf]
  · simp [stopIf, he]

/-- A guard stops exactly where its condition holds and `e` stops. -/
theorem stopIf_error {c : Bool} {e : Res Unit} {x : Stop} : stopIf c e = .error x ↔ c = true ∧ e = .error x := by
  cases c <;> simp [stopIf]

@[simp] theorem stopIf_raise {c : Bool} {x : Exc} {code : Word} {u : Unit} :
    stopIf c (raise x code) = .ok u ↔ c = false := stopIf_ok (by simp [raise])

@[simp] theorem stopIf_raiseBare {c : Bool} {x : Exc} {u : Unit} : stopIf c (raiseBare x) = .ok u ↔ c = false :=
  stopIf_ok (by simp [raiseBare])

@[simp] theorem stopIf_shutdown {c : Bool} {u : Unit} : stopIf c (.error .shutdown) = .ok u ↔ c = false :=
  stopIf_ok (by simp)

@[simp] theorem raise_ok {α : Type} (x : Exc) (code : Word) (a : α) : (raise x code : Res α) = .ok a ↔ False := by
  simp [raise]

@[simp] theorem raiseBare_ok {α : Type} (x : Exc) (a : α) : (raiseBare x : Res α) = .ok a ↔ False := by simp [raiseBare]

@[simp] theorem raisePf_ok {α : Type} (code : Word) (lin : Dword) (a : α) : (raisePf code lin : Res α) = .ok a ↔ False := by
  simp [raisePf]

@[simp] theorem refuse_ok {α : Type} (r : Refusal) (a : α) : (refuse r : Res α) = .ok a ↔ False := by simp [refuse]

/-- A meaning completes exactly when its computation answers. -/
@[simp] theorem conclude_next (s t : State) (r : Res State) : conclude s r = .next t ↔ r = .ok t := by
  cases r with
  | ok u => simp [conclude]
  | error e => cases e <;> simp [conclude, stopped]

/-- A meaning raises an exception exactly when its computation does; the state left is the one it began in. -/
theorem conclude_raised (s : State) (r : Res State) (x : Exc) (code : Option Word) (a : State) :
    conclude s r = .fault (.raised x code a) ↔
      ∃ c cr2, r = .error (.exc x c cr2) ∧ code = s.reportedCode c ∧ a = s.afterFault cr2 := by
  cases r with
  | ok u => simp [conclude]
  | error e =>
    cases e with
    | exc y c cr2 =>
      simp only [conclude, stopped, Host.Outcome.fault.injEq, Fault.raised.injEq, Except.error.injEq, Stop.exc.injEq]
      constructor
      · rintro ⟨rfl, rfl, rfl⟩; exact ⟨c, cr2, ⟨rfl, rfl, rfl⟩, rfl, rfl⟩
      · rintro ⟨_, _, ⟨rfl, rfl, rfl⟩, rfl, rfl⟩; exact ⟨rfl, rfl, rfl⟩
    | shutdown => simp [conclude, stopped]
    | refuse q => simp [conclude, stopped]

/-- A meaning ends in Shutdown exactly when its computation does. -/
theorem conclude_shutdown (s : State) (r : Res State) : conclude s r = .fault .shutdown ↔ r = .error .shutdown := by
  cases r with
  | ok u => simp [conclude]
  | error e => cases e <;> simp [conclude, stopped]

/-- No meaning is an interrupt. -/
theorem conclude_interrupt (s : State) (r : Res State) (a : Dword) : conclude s r ≠ .fault (.interrupt a) := by
  cases r with
  | ok u => simp [conclude]
  | error e => cases e <;> simp [conclude, stopped]

/-! ## Addresses -/

/-- A page walk answers a 32-bit physical address. -/
theorem State.pageWalk_lt (s : State) (lin : Dword) (w : Bool) (p : Nat) (h : s.pageWalk lin w = .ok p) : p < 2 ^ 32 := by
  unfold State.pageWalk at h
  split at h
  · split at h
    · cases h; exact lin.isLt
    · split at h
      · cases h; exact BitVec.isLt _
      · simp [raisePf] at h
  · cases h; exact lin.isLt

/-- With paging off a walk is the identity. -/
theorem State.pageWalk_off (s : State) (lin : Dword) (w : Bool) (h : s.paging = false) :
    s.pageWalk lin w = .ok lin.toNat := by simp [State.pageWalk, h]

/-- A walk of n bytes answers n physical addresses. -/
theorem State.walk_ok (s : State) (seg : SReg) (off : Nat) (w : Bool) (n : Nat) (ps : List Nat)
    (h : s.walk seg off w n = .ok ps) : ps.length = n ∧ ∀ p ∈ ps, p < 2 ^ 32 := by
  induction n generalizing off ps with
  | zero => cases h; simp
  | succ n ih =>
    simp only [State.walk, Res.bind_ok, Res.pure_ok] at h
    obtain ⟨p, hp, qs, hqs, rfl⟩ := h
    have := ih _ _ hqs
    simp only [List.length_cons, List.mem_cons, forall_eq_or_imp]
    exact ⟨by omega, s.pageWalk_lt _ _ _ hp, this.2⟩

/-- An access that passes: n physical addresses. -/
theorem State.access_ok (s : State) (seg : SReg) (off n : Nat) (k : Access) (ps : List Nat)
    (h : s.access seg off n k = .ok ps) : ps.length = n ∧ ∀ p ∈ ps, p < 2 ^ 32 := by
  simp only [State.access, Res.bind_ok, Res.pure_ok] at h
  obtain ⟨_, _, qs, hq, _, _, rfl⟩ := h
  exact s.walk_ok _ _ _ _ _ hq

/-- A read-modify-write that passes: n physical addresses to write, n to read. -/
theorem State.accessRmw_ok (s : State) (seg : SReg) (off n : Nat) (ws rs : List Nat)
    (h : s.accessRmw seg off n = .ok (ws, rs)) :
    ws.length = n ∧ rs.length = n ∧ (∀ p ∈ ws, p < 2 ^ 32) ∧ ∀ p ∈ rs, p < 2 ^ 32 := by
  simp only [State.accessRmw, Res.bind_ok, Res.pure_ok, Prod.mk.injEq] at h
  obtain ⟨_, _, qs, hq, qr, hr, _, _, _, _, rfl, rfl⟩ := h
  have h1 := s.walk_ok _ _ _ _ _ hq
  have h2 := s.walk_ok _ _ _ _ _ hr
  exact ⟨h1.1, h2.1, h1.2, h2.2⟩

/-! ## Reading and writing -/

/-- A read answers the bytes at the addresses of its access. -/
theorem State.memRead_ok (s : State) (seg : SReg) (off : Nat) (w : Width) (v : BitVec w.bits) :
    s.memRead seg off w = .ok v ↔ ∃ ps, s.access seg off w.bytes .read = .ok ps ∧ v = s.valueAt w ps := by
  simp only [State.memRead, Res.bind_ok, Res.pure_ok, eq_comm (b := v)]

/-- A write stores its bytes at the addresses of its access. -/
theorem State.memWriteBytes_ok (s t : State) (seg : SReg) (off : Nat) (bs : List Byte) :
    s.memWriteBytes seg off bs = .ok t ↔ ∃ ps, s.access seg off bs.length .write = .ok ps ∧ t = s.pokes ps bs := by
  simp only [State.memWriteBytes, Res.bind_ok, Res.pure_ok, eq_comm (b := t)]

@[simp] theorem valueBytes_length (w : Width) (v : BitVec w.bits) : (valueBytes w v).length = w.bytes :=
  leBytes_length _ _

/-- The accesses of SGDT and SIDT pass: the addresses of six bytes. -/
theorem State.tableAccess_ok (s : State) (m : Mem) (ps : List Nat) (h : s.tableAccess m = .ok ps) :
    ps.length = 6 ∧ ∀ p ∈ ps, p < 2 ^ 32 := by
  simp only [State.tableAccess, Res.bind_ok, Res.pure_ok] at h
  obtain ⟨as, ha, bs, hb, rfl⟩ := h
  have limit := s.access_ok _ _ _ _ _ ha
  have base := s.access_ok _ _ _ _ _ hb
  exact ⟨by rw [List.length_append, limit.1, base.1], fun p hp => (List.mem_append.1 hp).elim (limit.2 p) (base.2 p)⟩

/-- A write of a value stores its bytes. -/
theorem State.memWrite_ok (s t : State) (seg : SReg) (off : Nat) (w : Width) (v : BitVec w.bits) :
    s.memWrite seg off w v = .ok t ↔
      ∃ ps, s.access seg off w.bytes .write = .ok ps ∧ t = s.pokes ps (valueBytes w v) := by
  simp [State.memWrite, State.memWriteBytes_ok]

/-- Reading an r/m operand: a register, or memory. -/
theorem State.rmRead_ok (s : State) (w : Width) (rm : RM) (v : BitVec w.bits) (h : s.rmRead w rm = .ok v) :
    (∃ r, rm = .reg r ∧ v = s.reg w r) ∨
      ∃ m ps, rm = .mem m ∧ s.access (s.memSeg m) (s.ea m).toNat w.bytes .read = .ok ps ∧ v = s.valueAt w ps := by
  cases rm with
  | reg r => simp only [State.rmRead, Except.ok.injEq] at h; exact .inl ⟨r, rfl, h.symm⟩
  | mem m =>
    simp only [State.rmRead, State.memRead_ok] at h
    obtain ⟨ps, h1, h2⟩ := h
    exact .inr ⟨m, ps, rfl, h1, h2⟩

/-- Writing an r/m operand: one register, or the bytes of one access. -/
theorem State.rmWrite_ok (s t : State) (w : Width) (rm : RM) (v : BitVec w.bits) (h : s.rmWrite w rm v = .ok t) :
    (∃ r, rm = .reg r ∧ t = s.setReg w r v) ∨
      ∃ m ps, rm = .mem m ∧ s.access (s.memSeg m) (s.ea m).toNat w.bytes .write = .ok ps ∧
        t = s.pokes ps (valueBytes w v) := by
  cases rm with
  | reg r => simp only [State.rmWrite, Except.ok.injEq] at h; exact .inl ⟨r, rfl, h.symm⟩
  | mem m =>
    simp only [State.rmWrite, State.memWrite_ok] at h
    obtain ⟨ps, h1, h2⟩ := h
    exact .inr ⟨m, ps, rfl, h1, h2⟩

/-- Modifying an r/m operand: what `f` gives of the old value, written to the register or to the bytes of one access. -/
theorem State.rmModify_ok (s t : State) (w : Width) (rm : RM) (f : BitVec w.bits → BitVec w.bits × State)
    (h : s.rmModify w rm f = .ok t) :
    (∃ r, rm = .reg r ∧ t = (f (s.reg w r)).2.setReg w r (f (s.reg w r)).1) ∨
      ∃ m ws rs, rm = .mem m ∧ s.accessRmw (s.memSeg m) (s.ea m).toNat w.bytes = .ok (ws, rs) ∧
        t = (f (s.valueAt w rs)).2.pokes ws (valueBytes w (f (s.valueAt w rs)).1) := by
  cases rm with
  | reg r => simp only [State.rmModify, Except.ok.injEq] at h; exact .inl ⟨r, rfl, h.symm⟩
  | mem m =>
    simp only [State.rmModify, Res.bind_ok, Res.pure_ok] at h
    obtain ⟨⟨ws, rs⟩, h1, h2⟩ := h
    exact .inr ⟨m, ws, rs, rfl, h1, h2.symm⟩

/-! ## The stack -/

/-- The stack address size does not depend on memory or on the general registers. -/
@[simp] theorem State.stackSize_pokes (s : State) (ps : List Nat) (bs : List Byte) :
    (s.pokes ps bs).stackSize = s.stackSize := by
  simp [State.stackSize, State.as, State.defaultSize, State.mode]

/-- A push stores its item below the pointer and moves the pointer there. -/
theorem State.push_ok (s t : State) (w : Width) (v : BitVec w.bits) :
    s.push w v = .ok t ↔
      s.lowStack (s.spPlus (- BitVec.ofNat 32 w.bytes)) w.bytes = false ∧
        ∃ ps, s.access .ss (s.spPlus (- BitVec.ofNat 32 w.bytes)).toNat w.bytes .write = .ok ps ∧
          t = (s.pokes ps (valueBytes w v)).setSp s.stackSize (s.spPlus (- BitVec.ofNat 32 w.bytes)) := by
  simp only [State.push, Res.bind_ok, Res.pure_ok, stopIf_shutdown, State.memWrite_ok]
  constructor
  · rintro ⟨_, h, u, ⟨ps, h1, rfl⟩, rfl⟩
    exact ⟨h, ps, h1, rfl⟩
  · rintro ⟨h, ps, h1, rfl⟩
    exact ⟨(), h, _, ⟨ps, h1, rfl⟩, rfl⟩

/-- An item read from the stack is the bytes of one access. -/
theorem State.stackRead_ok (s : State) (d : Nat) (w : Width) (v : BitVec w.bits) :
    s.stackRead d w = .ok v ↔
      ∃ ps, s.access .ss (s.spPlus (BitVec.ofNat 32 d)).toNat w.bytes .read = .ok ps ∧ v = s.valueAt w ps :=
  s.memRead_ok _ _ _ _

/-! ## Loading a segment register -/

/-- A descriptor is used when its selector names one that can be read. -/
theorem State.descOrGp_ok (s : State) (sel : Word) (d : Descriptor) :
    s.descOrGp sel = .ok d ↔ s.desc sel = some (.found d) := by
  unfold State.descOrGp
  split <;> simp_all

/-- SS loaded in protected mode: a present writable data segment of the current level (40_stack R155). -/
theorem State.loadSsProt_ok (s : State) (sel : Word) (g : SegReg) :
    s.loadSsProt sel = .ok g ↔
      ∃ d, s.desc sel = some (.found d) ∧ nullSel sel = false ∧ rpl sel = s.cpl ∧ d.isWritable = true ∧ d.dpl = s.cpl ∧
        d.present = true ∧ g = SegReg.loaded sel d := by
  simp only [State.loadSsProt, Res.bind_ok, Res.pure_ok, stopIf_raise, State.descOrGp_ok, Bool.or_eq_false_iff,
    bne_eq_false_iff_eq, Bool.not_eq_false']
  constructor
  · rintro ⟨_, h0, _, h1, d, hd, _, ⟨h2, h3⟩, _, h4, rfl⟩
    exact ⟨d, hd, h0, h1, h2, h3, h4, rfl⟩
  · rintro ⟨d, hd, h0, h1, h2, h3, h4, rfl⟩
    exact ⟨(), h0, (), h1, d, hd, (), ⟨h2, h3⟩, (), h4, rfl⟩

/-- DS, ES, FS or GS loaded in protected mode: a null selector marks the register invalid, any other names a present readable
segment that the level may use (40_stack R155). -/
theorem State.loadDataProt_ok (s : State) (r : SReg) (sel : Word) (g : SegReg) :
    s.loadDataProt r sel = .ok g ↔
      (nullSel sel = true ∧ g = { s.seg r with selector := sel, valid := false }) ∨
        (nullSel sel = false ∧ ∃ d, s.desc sel = some (.found d) ∧ d.isReadable = true ∧
          (d.isConforming = true ∨ ¬ d.dpl < outerLevel s.cpl (rpl sel)) ∧ d.present = true ∧
          g = SegReg.loaded sel d) := by
  unfold State.loadDataProt
  cases h : nullSel sel
  · simp only [State.loadDataFound, Res.bind_ok, Res.pure_ok, stopIf_raise, State.descOrGp_ok, Bool.or_eq_false_iff,
      Bool.not_eq_false', Bool.and_eq_false_iff, decide_eq_false_iff_not, Bool.false_eq_true, if_false, false_and,
      false_or, true_and]
    constructor
    · rintro ⟨d, hd, _, ⟨h1, h2⟩, _, h3, rfl⟩
      exact ⟨d, hd, h1, h2, h3, rfl⟩
    · rintro ⟨d, hd, h1, h2, h3, rfl⟩
      exact ⟨d, hd, (), ⟨h1, h2⟩, (), h3, rfl⟩
  · simp only [if_true, Except.ok.injEq, true_and, Bool.true_eq_false, false_and, or_false, eq_comm (b := g)]

/-! ## RET -/

/-- The return selector's descriptor passes (42_ret R238, R239): a present code segment of the right level. -/
theorem State.returnCode_ok (s : State) (sel : Word) (d : Descriptor) :
    s.returnCode sel = .ok d ↔
      nullSel sel = false ∧ s.desc sel = some (.found d) ∧ d.isCode = true ∧ d.present = true ∧
        (d.isConforming = true ∨ d.dpl = rpl sel) ∧ (d.isConforming = false ∨ ¬ s.cpl < d.dpl) := by
  simp only [State.returnCode, Res.bind_ok, Res.pure_ok, stopIf_raise, State.descOrGp_ok, Bool.not_eq_false',
    Bool.and_eq_false_iff, bne_eq_false_iff_eq, decide_eq_false_iff_not]
  constructor
  · rintro ⟨_, h0, e, he, _, h1, _, h2, _, h3, _, h4, rfl⟩
    exact ⟨h0, he, h1, h4, h2, h3⟩
  · rintro ⟨h0, hd, h1, h4, h2, h3⟩
    exact ⟨(), h0, d, hd, (), h1, (), h2, (), h3, (), h4, rfl⟩

/-- The return stack segment passes (42_ret R239): a present writable data segment of the new level. -/
theorem State.returnStack_ok (s : State) (ssel : Word) (l : BitVec 2) (d : Descriptor) :
    s.returnStack ssel l = .ok d ↔
      nullSel ssel = false ∧ s.desc ssel = some (.found d) ∧ d.isWritable = true ∧ rpl ssel = l ∧ d.dpl = l ∧
        d.present = true := by
  simp only [State.returnStack, Res.bind_ok, Res.pure_ok, stopIf_raise, State.descOrGp_ok, Bool.not_eq_false',
    bne_eq_false_iff_eq]
  constructor
  · rintro ⟨_, h0, e, he, _, h1, _, h2, _, h3, _, h4, rfl⟩
    exact ⟨h0, he, h1, h2, h3, h4⟩
  · rintro ⟨h0, hd, h1, h2, h3, h4⟩
    exact ⟨(), h0, d, hd, (), h1, (), h2, (), h3, (), h4, rfl⟩

end Sys2Proof.Machine
end

