-- ==== Sys2Proof/Laws/Access.lean ====
section
/-! SUPPORT. An access depends on the checks' inputs alone: two states that agree on CR0, VM, the segment registers, the oracles
and the populated memory give the same addresses. Page walks, low stacks and the bytes of a value, in the words of
statements. -/

namespace Sys2Proof.Machine

/-- Everything the check of an access reads. -/
structure SameChecks (s t : State) : Prop where
  cr0 : t.cr0 = s.cr0
  vm : flag t.eflags .vm = flag s.eflags .vm
  segs : t.segs = s.segs
  pages : t.pages = s.pages
  populated : t.populated = s.populated

namespace SameChecks

variable {s t : State} (h : SameChecks s t)
include h

theorem mode : t.mode = s.mode := by unfold State.mode; rw [h.cr0, h.vm]

theorem cpl : t.cpl = s.cpl := by unfold State.cpl; rw [h.mode, h.segs]

theorem segCheck (seg : SReg) (off n : Nat) (k : Access) : t.segCheck seg off n k = s.segCheck seg off n k := by
  unfold State.segCheck State.seg; rw [h.mode, h.segs]

theorem pageWalk (lin : Dword) (w : Bool) : t.pageWalk lin w = s.pageWalk lin w := by
  unfold State.pageWalk State.paging; rw [h.mode, h.cr0, h.pages, h.cpl]

theorem walk (seg : SReg) (off : Nat) (w : Bool) (n : Nat) : t.walk seg off w n = s.walk seg off w n := by
  induction n generalizing off with
  | zero => rfl
  | succ n ih =>
    have hl : t.linear seg off = s.linear seg off := by unfold State.linear State.seg; rw [h.segs]
    simp only [State.walk, ih, hl, h.pageWalk]

theorem populatedAt (a : Nat) : t.populatedAt a = s.populatedAt a := by unfold State.populatedAt; rw [h.populated]

theorem allPopulated (l : List Nat) : t.allPopulated l = s.allPopulated l := by
  induction l with
  | nil => rfl
  | cons a l ih => simp only [State.allPopulated, ih, h.populatedAt]

theorem access (seg : SReg) (off n : Nat) (k : Access) : t.access seg off n k = s.access seg off n k := by
  simp only [State.access, h.segCheck, h.walk, h.allPopulated]

theorem accessRmw (seg : SReg) (off n : Nat) : t.accessRmw seg off n = s.accessRmw seg off n := by
  simp only [State.accessRmw, h.segCheck, h.walk, h.allPopulated]

end SameChecks

/-- The bytes of a value, cut out of it. -/
theorem valueBytes_eq (w : Width) (v : BitVec w.bits) : valueBytes w v = bytesOf w v := by
  have hb : ∀ n (v : BitVec n) i, BitVec.ofNat 8 (v.toNat / 2 ^ (8 * i)) = v.extractLsb' (8 * i) 8 := by
    intro n v i
    apply BitVec.eq_of_toNat_eq
    simp [BitVec.extractLsb'_toNat, Nat.shiftRight_eq_div_pow]
  have h : ∀ n (x : Nat), leBytes n x = (List.range n).map (fun i => BitVec.ofNat 8 (x / 2 ^ (8 * i))) := by
    intro n
    induction n with
    | zero => intro x; rfl
    | succ n ih =>
      intro x
      rw [List.range_succ_eq_map, leBytes, ih, List.map_cons, List.map_map]
      congr 1
      · simp
      · apply List.map_congr_left
        intro i _
        have : 2 ^ (8 * (i + 1)) = 256 * 2 ^ (8 * i) := by rw [Nat.mul_add, Nat.pow_add]; ring
        simp [this, Nat.div_div_eq_div_mul]
  rw [valueBytes, bytesOf, h]
  exact List.map_congr_left (fun i _ => hb _ _ _)

/-- With no coprocessor store pending, the value read from some addresses has the bytes memory holds there. -/
theorem State.valueAt_bytes (s : State) (w : Width) (ps : List Nat) (hc : s.coproc = []) (hl : ps.length = w.bytes) :
    bytesOf w (s.valueAt w ps) = ps.map (Memory.get s.mem) := by
  have hp : ps.map s.peek = ps.map (Memory.get s.mem) :=
    List.map_congr_left fun a _ => by simp [State.peek, hc, pendingByte]
  have hlen : (ps.map (Memory.get s.mem)).length = w.bytes := by simp [hl]
  have hlt := leNat_lt (ps.map (Memory.get s.mem))
  have hv : (BitVec.ofNat w.bits (leNat (ps.map (Memory.get s.mem)))).toNat = leNat (ps.map (Memory.get s.mem)) := by
    rw [hlen] at hlt
    rw [BitVec.toNat_ofNat, Nat.mod_eq_of_lt]; cases w <;> simpa [Width.bits, Width.bytes] using hlt
  rw [← valueBytes_eq]
  unfold valueBytes State.valueAt
  rw [hp, hv, ← hlen, leBytes_leNat]

/-! ## Page walks in the words of statements -/

/-- The search of the paging table asks what `speaks` says. -/
theorem PageEntry.covers_iff (e : PageEntry) (lin : Dword) (w : Bool) (l : BitVec 2) :
    e.covers lin w l = true ↔ e.speaks lin w l := by
  unfold PageEntry.covers PageEntry.speaks
  cases e.level <;> simp [BitVec.le_def, and_assoc]

/-- The entry the search finds. -/
theorem State.pageHas_iff (s : State) (lin : Dword) (w : Bool) (e : PageEntry) :
    s.pageHas lin w e ↔ s.pages.find? (fun e => e.covers lin w s.cpl) = some e := by
  unfold State.pageHas
  rw [List.find?_eq_some_iff_append]
  constructor
  · rintro ⟨b, a, h, h1, h2⟩
    exact ⟨(e.covers_iff ..).2 h1, b, a, h, fun x hx => by simpa [← PageEntry.covers_iff] using h2 x hx⟩
  · rintro ⟨h1, b, a, h, h2⟩
    exact ⟨b, a, h, (e.covers_iff ..).1 h1, fun x hx => by simpa [← PageEntry.covers_iff] using h2 x hx⟩

/-- With paging on, a walk answers exactly what the table or the identity gives. -/
theorem State.pageWalk_ok_iff (s : State) (lin : Dword) (w : Bool) (p : Nat) (hp : s.paging = true) :
    s.pageWalk lin w = .ok p ↔ s.walksTo lin w p := by
  have hn : (∀ e ∈ s.pages, ¬e.speaks lin w s.cpl) ↔ s.pages.find? (fun e => e.covers lin w s.cpl) = none := by
    rw [List.find?_eq_none]; simp [← PageEntry.covers_iff]
  unfold State.walksTo State.pageWalk
  simp only [State.pageHas_iff, hn, hp, if_true]
  cases s.pages.find? (fun e => e.covers lin w s.cpl) with
  | none => simp [eq_comm]
  | some e => cases h : e.answer <;> simp [h, eq_comm, raisePf]

/-- With paging on, a walk stops exactly where the table faults, with its code, at that address. -/
theorem State.pageWalk_error_iff (s : State) (lin : Dword) (w : Bool) (x : Stop) (hp : s.paging = true) :
    s.pageWalk lin w = .error x ↔ ∃ c, s.walkFaults lin w c ∧ x = .exc .pf (some c) (some lin) := by
  unfold State.walkFaults State.pageWalk
  simp only [State.pageHas_iff, hp, if_true]
  cases s.pages.find? (fun e => e.covers lin w s.cpl) with
  | none => simp
  | some e => cases h : e.answer <;> simp [h, eq_comm, raisePf]

/-! ## The low half of a register, the stack pointer -/

/-- A push ends in Shutdown in real mode, where its item reaches past FFFFh. -/
theorem State.lowStack_iff (s : State) (t : Dword) (w : Width) :
    s.lowStack t w.bytes = true ↔ s.mode = .real ∧ 0xFFFF < t.toNat + w.bytes - 1 := by
  unfold State.lowStack
  cases w <;> simp [Width.bytes] <;> intro _ <;> omega

/-- A low half replaced: the old high half before the new low half. -/
theorem lowWord_eq (old v : Dword) : lowWord old v = old.extractLsb' 16 16 ++ v.extractLsb' 0 16 := by
  apply BitVec.eq_of_getLsbD_eq
  intro i hi
  have h1 : (0xFFFF#32).getLsbD i = decide (i < 16) := by
    have : ∀ i : Fin 32, (0xFFFF#32).getLsbD i = decide (i.1 < 16) := by decide
    exact this ⟨i, hi⟩
  have h2 : (0xFFFF0000#32).getLsbD i = decide (¬ i < 16) := by
    have : ∀ i : Fin 32, (0xFFFF0000#32).getLsbD i = decide (¬ i.1 < 16) := by decide
    exact this ⟨i, hi⟩
  rw [lowWord, BitVec.getLsbD_or, BitVec.getLsbD_and, BitVec.getLsbD_and, BitVec.getLsbD_append]
  simp only [BitVec.getLsbD_extractLsb']
  change (_ && (0xFFFF0000#32).getLsbD i || _ && (0xFFFF#32).getLsbD i) = _
  rw [h1, h2]
  by_cases h : i < 16
  · simp [h]
  · have : 16 + (i - 16) = i := by omega
    simp [h, this]; omega

/-- The stack pointer written at the stack address size, in the words of statements. -/
theorem setSp_spBecomes (s t : State) (top : Dword) (hr : t.regs = s.regs) :
    spBecomes s (t.setSp s.stackSize top) top := by
  unfold spBecomes State.setSp
  cases s.stackSize
  · simp only [lowWord_eq, hr]
  · rfl

/-- Only (E)SP changes with the stack pointer. -/
theorem setSp_regsKept (t : State) (sa : OSize) (top : Dword) : regsKept [.n4] t (t.setSp sa top) := by
  intro r hr
  cases r <;> first | rfl | simp at hr

end Sys2Proof.Machine
end

