-- ==== Sys2Proof/Laws/Flags.lean ====
section
/-! SUPPORT. The bits of EFLAGS after each flag computation: which are written, and that the others are kept. -/

namespace Sys2Proof.Machine

/-! ## One bit -/

/-- A mask of one bit has that bit. -/
theorem bitMask_bit (i b : Nat) : (bitMask i).getLsbD b = (decide (b < 32) && decide (b = i)) := by
  simp only [bitMask, BitVec.getLsbD_shiftLeft]
  by_cases h : b = i
  · subst h; simp
  · by_cases hb : b < i
    · simp [hb, h]
    · have : b - i ≠ 0 := by omega
      simp [h, this]

/-- One bit written: that bit, and the others as they were. -/
theorem putBit_bit (f : Dword) (i b : Nat) (v : Bool) :
    (putBit f i v).getLsbD b = if b = i ∧ b < 32 then v else f.getLsbD b := by
  by_cases hb : b < 32
  · unfold putBit
    cases v <;>
      simp only [if_true, if_false, Bool.false_eq_true, BitVec.getLsbD_or, BitVec.getLsbD_and, BitVec.getLsbD_not,
        bitMask_bit, hb, decide_true, Bool.true_and, and_true] <;>
      by_cases h : b = i <;> simp [h]
  · rw [BitVec.getLsbD_of_ge _ b (by omega), BitVec.getLsbD_of_ge f b (by omega)]
    simp [hb]

/-- A flag written: its bit, and the others as they were. -/
theorem setFlag_bit (f : Dword) (x : Flag) (v : Bool) (b : Nat) :
    (setFlag f x v).getLsbD b = if b = x.pos then v else f.getLsbD b := by
  rw [setFlag, putBit_bit]
  have : x.pos < 32 := by cases x <;> decide
  by_cases h : b = x.pos
  · subst h; simp [this]
  · simp [h]

/-- A flag written reads back, and the other flags read as before. -/
@[simp] theorem flag_setFlag (f : Dword) (x y : Flag) (v : Bool) :
    flag (setFlag f x v) y = if y = x then v else flag f y := by
  rw [flag, setFlag_bit]
  by_cases h : y = x
  · simp [h]
  · have : y.pos ≠ x.pos := by cases x <;> cases y <;> simp_all [Flag.pos]
    simp [h, this, flag]

/-- POPF's merge, bit by bit. -/
theorem popfMerge_bit (a c : Bool) (f v : Dword) (b : Nat) :
    (popfMerge a c f v).getLsbD b = if (popfMask a c).getLsbD b then v.getLsbD b else f.getLsbD b := by
  unfold popfMerge
  by_cases hb : b < 32
  · simp only [BitVec.getLsbD_or, BitVec.getLsbD_and, BitVec.getLsbD_not, hb, decide_true, Bool.true_and]
    cases (popfMask a c).getLsbD b <;> simp
  · have h1 : ∀ x : Dword, x.getLsbD b = false := fun x => BitVec.getLsbD_of_ge x b (by omega)
    simp [h1]

/-! ## Bits kept -/

/-- Two words agree outside the bits of a list. -/
def sameOutside (bits : List Nat) (f g : Dword) : Prop := ∀ b, b ∉ bits → g.getLsbD b = f.getLsbD b

theorem sameOutside_refl (bits : List Nat) (f : Dword) : sameOutside bits f f := fun _ _ => rfl

theorem sameOutside_trans {bits : List Nat} {f g h : Dword} (h1 : sameOutside bits f g) (h2 : sameOutside bits g h) :
    sameOutside bits f h := fun b hb => (h2 b hb).trans (h1 b hb)

theorem sameOutside_mono {bits more : List Nat} {f g : Dword} (hs : bits ⊆ more) (h : sameOutside bits f g) :
    sameOutside more f g := fun b hb => h b (fun hm => hb (hs hm))

theorem sameOutside_setFlag {bits : List Nat} {f g : Dword} (x : Flag) (v : Bool) (hx : x.pos ∈ bits)
    (h : sameOutside bits f g) : sameOutside bits f (setFlag g x v) := by
  intro b hb
  rw [setFlag_bit, if_neg, h b hb]
  rintro rfl; exact hb hx

/-- The status flags written. -/
theorem sameOutside_setStatus (f : Dword) (t : Status) : sameOutside [0, 2, 4, 6, 7, 11] f (setStatus f t) := by
  unfold setStatus
  iterate 6 refine sameOutside_setFlag _ _ (by decide) ?_
  exact sameOutside_refl _ _

/-- A rotate writes CF and OF. -/
theorem sameOutside_rotate {n : Nat} (op : ShiftOp) (c d : Nat) (r : BitVec n) (cf : Bool) (f : Dword)
    (h : op.isShift = false) : sameOutside [0, 11] f (op.flags c d r cf f) := by
  unfold ShiftOp.flags
  simp only [h, Bool.false_eq_true, false_and, if_false]
  iterate 2 refine sameOutside_setFlag _ _ (by decide) ?_
  exact sameOutside_refl _ _

/-- A shift writes the status flags. -/
theorem sameOutside_shift {n : Nat} (op : ShiftOp) (c d : Nat) (r : BitVec n) (cf : Bool) (f : Dword) :
    sameOutside [0, 2, 4, 6, 7, 11] f (op.flags c d r cf f) := by
  unfold ShiftOp.flags
  simp only
  split
  · iterate 6 refine sameOutside_setFlag _ _ (by decide) ?_
    exact sameOutside_refl _ _
  · iterate 2 refine sameOutside_setFlag _ _ (by decide) ?_
    exact sameOutside_refl _ _

/-- A double shift writes the status flags. -/
theorem sameOutside_doubleShift {n : Nat} (l : Bool) (c d : Nat) (x y : BitVec n) (f : Dword) :
    sameOutside [0, 2, 4, 6, 7, 11] f (doubleShift l c d x y f).2 := by
  unfold doubleShift
  split
  · exact sameOutside_refl _ _
  · split <;> exact sameOutside_setStatus _ _

/-- SAHF writes five flags. -/
theorem sameOutside_sahf (f : Dword) (a : Byte) : sameOutside [0, 2, 4, 6, 7] f (sahfFlags f a) := by
  unfold sahfFlags
  iterate 5 refine sameOutside_setFlag _ _ (by decide) ?_
  exact sameOutside_refl _ _

/-- The bits POPF may write. -/
abbrev popfBits : List Nat := [0, 2, 4, 6, 7, 8, 9, 10, 11, 12, 13, 14]

/-- POPF's mask holds no other bit. -/
theorem popfMask_bit (a c : Bool) (b : Nat) (h : b ∉ popfBits) : (popfMask a c).getLsbD b = false := by
  by_cases hb : b < 32
  · have : ∀ a c : Bool, ∀ b : Fin 32, b.1 ∉ popfBits → (popfMask a c).getLsbD b.1 = false := by decide
    exact this a c ⟨b, hb⟩ h
  · exact BitVec.getLsbD_of_ge _ b (by omega)

/-- POPF writes no other bit. -/
theorem sameOutside_popf (a c : Bool) (f v : Dword) : sameOutside popfBits f (popfMerge a c f v) := by
  intro b hb
  rw [popfMerge_bit, popfMask_bit _ _ _ hb]; rfl

end Sys2Proof.Machine
end

