-- ==== Sys2Proof/Laws/Frame.lean ====
section
/-! SUPPORT. Frames: a relation between states that every update an instruction is made of keeps is kept by every meaning, by
`exec` and by `step`. Which segment registers and which bits of EFLAGS may be written is said apart. -/

namespace Sys2Proof.Machine

/-- A relation kept by every update an instruction is made of, the segment registers of `segs` and the bits of `bits` being
free to change. -/
structure Frame (segs : List SReg) (bits : List Nat) (P : State → State → Prop) : Prop where
  refl : ∀ s, P s s
  trans : ∀ {s t u}, P s t → P t u → P s u
  advance : ∀ s : State, P s s.advance
  stay : ∀ s : State, P s s.stay
  jump : ∀ (s : State) a, P s (s.jump a)
  setReg : ∀ (s : State) w r v, P s (s.setReg w r v)
  pokes : ∀ (s : State) ps bs, (∀ p ∈ ps, p < 2 ^ 32) → P s (s.pokes ps bs)
  setSp : ∀ (s : State) sa v, P s (s.setSp sa v)
  commit : ∀ s : State, P s s.commitStores
  exchangeBytes : ∀ (s : State) ps bs, (∀ p ∈ ps, p < 2 ^ 32) → P s (s.exchangeBytes ps bs)
  inhibit : ∀ (s : State) b, P s { s with inhibit := b }
  eflags : ∀ (s : State) f, sameOutside bits s.eflags f → P s (s.setEflags f)
  seg : ∀ (s : State) r v, r ∈ segs → P s (s.setSeg r v)
  regs : ∀ (s : State) g, P s { s with regs := g }
  cur : ∀ (s : State) c, P s { s with cur := c }

variable {segs : List SReg} {bits : List Nat} {P : State → State → Prop} (F : Frame segs bits P)
include F

/-- The stack pointer released. -/
theorem Frame.release (s : State) (n) : P s (s.release n) := F.setSp _ _ _

/-- An operand modified. -/
theorem Frame.rmModify (s t : State) (w rm) (f : BitVec w.bits → BitVec w.bits × State) (hf : ∀ x, P s (f x).2)
   (h : s.rmModify w rm f = .ok t) : P s t := by
  rcases s.rmModify_ok t w rm f h with ⟨r, rfl, rfl⟩ | ⟨m, ws, rs, rfl, h1, rfl⟩
  · exact F.trans (hf _) (F.setReg _ _ _ _)
  · exact F.trans (hf _) (F.pokes _ _ _ (s.accessRmw_ok _ _ _ _ _ h1).2.2.1)

/-- A push. -/
theorem Frame.push (s t : State) (w v) (h : s.push w v = .ok t) : P s t := by
  rw [State.push_ok] at h
  obtain ⟨_, ps, h1, rfl⟩ := h
  exact F.trans (F.pokes _ _ _ (s.access_ok _ _ _ _ _ h1).2) (F.setSp _ _ _)

/-- Bytes stored. -/
theorem Frame.memWriteBytes (s t : State) (seg off bs) (h : s.memWriteBytes seg off bs = .ok t) : P s t := by
  rw [State.memWriteBytes_ok] at h
  obtain ⟨ps, h1, rfl⟩ := h
  exact F.pokes _ _ _ (s.access_ok _ _ _ _ _ h1).2

/-- A value stored. -/
theorem Frame.memWrite (s t : State) (seg off w v) (h : s.memWrite seg off w v = .ok t) : P s t :=
  F.memWriteBytes _ _ _ _ _ h

/-- An operand written. -/
theorem Frame.rmWrite (s t : State) (w rm v) (h : s.rmWrite w rm v = .ok t) : P s t := by
  rcases s.rmWrite_ok t w rm v h with ⟨r, rfl, rfl⟩ | ⟨m, ws, rfl, h1, rfl⟩
  · exact F.setReg _ _ _ _
  · exact F.pokes _ _ _ (s.access_ok _ _ _ _ _ h1).2

/-- POP into a general register. -/
theorem Frame.popReg (s t : State) (w r) (h : popReg w r s = .ok t) : P s t := by
  simp only [Machine.popReg, Res.bind_ok, Res.pure_ok] at h
  obtain ⟨v, _, rfl⟩ := h
  refine F.trans ?_ (F.advance _)
  unfold State.popToReg
  split
  · split
    · exact F.trans (F.setReg _ _ _ _) (F.release _ _)
    · exact F.trans (F.release _ _) (F.setReg _ _ _ _)
  · exact F.trans (F.release _ _) (F.setReg _ _ _ _)

/-- POP into memory. -/
theorem Frame.popMem (s t : State) (w m) (h : popMem w m s = .ok t) : P s t := by
  simp only [Machine.popMem, Res.bind_ok, Res.pure_ok] at h
  obtain ⟨v, _, u, hu, rfl⟩ := h
  exact F.trans (F.trans (F.release _ _) (F.memWrite _ _ _ _ _ _ hu)) (F.advance _)

/-- POP into a segment register. -/
theorem Frame.popSeg (s t : State) (r) (hr : r ∈ segs) (h : popSeg r s = .ok t) : P s t := by
  simp only [Machine.popSeg, Res.bind_ok, Res.pure_ok] at h
  obtain ⟨v, _, u, hu, rfl⟩ := h
  exact F.trans (F.trans (F.release _ _) (F.seg _ _ _ hr)) (F.advance _)

/-- POPA, POPAD. -/
theorem Frame.popAll (s t : State) (w) (h : popAll w s = .ok t) : P s t := by
  simp only [Machine.popAll, Res.bind_ok, Res.pure_ok] at h
  obtain ⟨_, _, _, _, _, _, _, _, _, _, _, _, _, _, _, _, _, _, rfl⟩ := h
  refine F.trans ?_ (F.advance _)
  iterate 7 refine F.trans ?_ (F.setReg _ _ _ _)
  exact F.release _ _

/-- POPF, POPFD. -/
theorem Frame.popFlags (s t : State) (w) (hb : popfBits ⊆ bits) (h : popFlags w s = .ok t) : P s t := by
  simp only [Machine.popFlags, State.pop, Res.bind_ok, Res.pure_ok] at h
  obtain ⟨_, _, ⟨_, _⟩, ⟨_, _, h3⟩, _, _, rfl⟩ := h
  cases h3
  exact F.trans (F.trans (F.release _ _) (F.eflags _ _ (sameOutside_mono hb (sameOutside_popf _ _ _ _)))) (F.advance _)

/-- PUSH. -/
theorem Frame.pushValue (s t : State) (w v) (h : pushValue w v s = .ok t) : P s t := by
  simp only [Machine.pushValue, Res.bind_ok, Res.pure_ok] at h
  obtain ⟨_, h, rfl⟩ := h
  exact F.trans (F.push _ _ _ _ h) (F.advance _)

/-- PUSHA, PUSHAD. -/
theorem Frame.pushAll (s t : State) (w) (h : pushAll w s = .ok t) : P s t := by
  simp only [Machine.pushAll, Res.bind_ok, Res.pure_ok] at h
  obtain ⟨_, h1, _, h2, _, h3, _, h4, _, h5, _, h6, _, h7, _, h8, rfl⟩ := h
  refine F.trans ?_ (F.advance _)
  refine F.trans ?_ (F.push _ _ _ _ h8)
  refine F.trans ?_ (F.push _ _ _ _ h7)
  refine F.trans ?_ (F.push _ _ _ _ h6)
  refine F.trans ?_ (F.push _ _ _ _ h5)
  refine F.trans ?_ (F.push _ _ _ _ h4)
  refine F.trans ?_ (F.push _ _ _ _ h3)
  refine F.trans ?_ (F.push _ _ _ _ h2)
  exact F.push _ _ _ _ h1

/-- PUSHF, PUSHFD. -/
theorem Frame.pushFlags (s t : State) (w v) (h : pushFlags w v s = .ok t) : P s t := by
  simp only [Machine.pushFlags, Res.bind_ok] at h
  obtain ⟨_, _, h⟩ := h
  exact F.pushValue _ _ _ _ h

/-- A rotate or shift. -/
theorem Frame.shiftRm (s t : State) (op : ShiftOp) (w rm raw)
    (hb : (if op.isShift then [0, 2, 4, 6, 7, 11] else [0, 11]) ⊆ bits) (h : shiftRm op w rm raw s = .ok t) : P s t := by
  simp only [Machine.shiftRm, Res.bind_ok, Res.pure_ok] at h
  obtain ⟨_, h, rfl⟩ := h
  have hf : ∀ (n : Nat) (c d : Nat) (r : BitVec n) (cf : Bool) (f : Dword), sameOutside bits f (op.flags c d r cf f) := by
    intro n c d r cf f
    cases ho : op.isShift
    · exact sameOutside_mono (by simpa [ho] using hb) (sameOutside_rotate op c d r cf f ho)
    · exact sameOutside_mono (by simpa [ho] using hb) (sameOutside_shift op c d r cf f)
  exact F.trans (F.rmModify _ _ _ _ _ (fun x => F.eflags _ _ (hf _ _ _ _ _ _)) h) (F.advance _)

/-- SHLD, SHRD. -/
theorem Frame.doubleRm (s t : State) (l rm r raw) (hb : [0, 2, 4, 6, 7, 11] ⊆ bits)
    (h : doubleRm l rm r raw s = .ok t) : P s t := by
  simp only [Machine.doubleRm, Res.bind_ok, Res.pure_ok] at h
  obtain ⟨_, h, rfl⟩ := h
  exact F.trans (F.rmModify _ _ _ _ _ (fun x => F.eflags _ _ (sameOutside_mono hb (sameOutside_doubleShift _ _ _ _ _ _))) h)
     (F.advance _)

/-- SUB, SBB of an r/m destination. -/
theorem Frame.subRm (s t : State) (c n rm b) (hb : [0, 2, 4, 6, 7, 11] ⊆ bits)
    (h : subRm c n rm b s = .ok t) : P s t := by
  simp only [Machine.subRm, Res.bind_ok, Res.pure_ok] at h
  obtain ⟨_, h, rfl⟩ := h
  exact F.trans (F.rmModify _ _ _ _ _ (fun x => F.eflags _ _ (sameOutside_mono hb (sameOutside_setStatus _ _))) h)
     (F.advance _)

/-- XOR of an r/m destination. -/
theorem Frame.xorRm (s t : State) (n rm b) (hb : [0, 2, 4, 6, 7, 11] ⊆ bits) (h : xorRm n rm b s = .ok t) : P s t := by
  simp only [Machine.xorRm, Res.bind_ok, Res.pure_ok] at h
  obtain ⟨_, h, rfl⟩ := h
  exact F.trans (F.rmModify _ _ _ _ _ (fun x => F.eflags _ _ (sameOutside_mono hb (sameOutside_setStatus _ _))) h)
     (F.advance _)

/-- SUB, SBB of a register destination. -/
theorem Frame.subReg (s t : State) (c n r rm) (hb : [0, 2, 4, 6, 7, 11] ⊆ bits)
    (h : subReg c n r rm s = .ok t) : P s t := by
  simp only [Machine.subReg, Res.bind_ok, Res.pure_ok] at h
  obtain ⟨_, h, rfl⟩ := h
  exact F.trans (F.trans (F.eflags _ _ (sameOutside_mono hb (sameOutside_setStatus _ _))) (F.setReg _ _ _ _))
     (F.advance _)

/-- XOR of a register destination. -/
theorem Frame.xorReg (s t : State) (n r rm) (hb : [0, 2, 4, 6, 7, 11] ⊆ bits) (h : xorReg n r rm s = .ok t) : P s t := by
  simp only [Machine.xorReg, Res.bind_ok, Res.pure_ok] at h
  obtain ⟨_, h, rfl⟩ := h
  exact F.trans (F.trans (F.eflags _ _ (sameOutside_mono hb (sameOutside_setStatus _ _))) (F.setReg _ _ _ _))
     (F.advance _)

/-- TEST. -/
theorem Frame.testRm (s t : State) (n rm b) (hb : [0, 2, 4, 6, 7, 11] ⊆ bits) (h : testRm n rm b s = .ok t) : P s t := by
  simp only [Machine.testRm, Res.bind_ok, Res.pure_ok] at h
  obtain ⟨_, h, rfl⟩ := h
  exact F.trans (F.eflags _ _ (sameOutside_mono hb (sameOutside_setStatus _ _))) (F.advance _)

/-- RET near. -/
theorem Frame.retNearBy (s t : State) (imm) (h : retNearBy imm s = .ok t) : P s t := by
  simp only [Machine.retNearBy, Res.bind_ok, Res.pure_ok] at h
  obtain ⟨_, h, _, _, rfl⟩ := h
  exact F.trans (F.release _ _) (F.jump _ _)

/-- The outer level's stack pointer. -/
theorem Frame.outerSp (s : State) (image : Dword) (imm : Nat) : P s (s.outerSp image imm) := by
  unfold State.outerSp
  simp only
  split
  · exact F.setSp _ _ _
  · split
    · exact F.setSp _ _ _
    · exact F.trans (F.setSp _ _ _) (F.release _ _)

/-- RET far. -/
theorem Frame.retFarBy (s t : State) (imm) (hr : ∀ r, r ∈ segs) (h : retFarBy imm s = .ok t) : P s t := by
  unfold Machine.retFarBy at h
  split at h
  · simp only [retFarProt, Res.bind_ok] at h
    obtain ⟨_, _, _, _, _, _, h⟩ := h
    split at h
    · simp only [retSameLevel, Res.bind_ok, Res.pure_ok] at h
      obtain ⟨_, _, _, _, _, _, rfl⟩ := h
      exact F.trans (F.trans (F.release _ _) (F.seg _ _ _ (hr _))) (F.jump _ _)
    · simp only [retOuterLevel, Res.bind_ok, Res.pure_ok] at h
      obtain ⟨_, _, _, _, _, _, _, _, _, _, _, _, _, _, rfl⟩ := h
      refine F.trans ?_ (F.jump _ _)
      refine F.trans ?_ (F.seg _ _ _ (hr _))
      refine F.trans ?_ (F.seg _ _ _ (hr _))
      refine F.trans ?_ (F.seg _ _ _ (hr _))
      refine F.trans ?_ (F.seg _ _ _ (hr _))
      refine F.trans ?_ (F.seg _ _ _ (hr _))
      refine F.trans ?_ (F.outerSp _ _ _)
      exact F.seg _ _ _ (hr _)
  · simp only [retFarReal, Res.bind_ok, Res.pure_ok] at h
    obtain ⟨_, _, _, _, _, _, rfl⟩ := h
    exact F.trans (F.trans (F.release _ _) (F.seg _ _ _ (hr _))) (F.jump _ _)

/-- SETcc. -/
theorem Frame.setCond (s t : State) (c rm) (h : setCond c rm s = .ok t) : P s t := by
  simp only [Machine.setCond, Res.bind_ok, Res.pure_ok] at h
  obtain ⟨_, h, rfl⟩ := h
  exact F.trans (F.rmWrite _ _ _ _ _ h) (F.advance _)

/-- A string instruction, repeated or not. -/
theorem Frame.repeated (s t : State) (one ends) (ho : ∀ t, one s = .ok t → P s t)
    (h : repeated one ends s = .ok t) : P s t := by
  unfold Machine.repeated at h
  split at h
  · simp only [Res.bind_ok, Res.pure_ok] at h
    obtain ⟨_, h, rfl⟩ := h
    exact F.trans (ho _ h) (F.advance _)
  · split at h
    · cases h; exact F.advance _
    · simp only [Res.bind_ok, Res.pure_ok] at h
      obtain ⟨_, h, rfl⟩ := h
      split
      · exact F.trans (F.trans (ho _ h) (F.regs _ _)) (F.advance _)
      · exact F.trans (F.trans (ho _ h) (F.regs _ _)) (F.stay _)

/-- One SCAS. -/
theorem Frame.scasOne (s t : State) (w) (hb : [0, 2, 4, 6, 7, 11] ⊆ bits) (h : scasOne w s = .ok t) : P s t := by
  simp only [Machine.scasOne, Res.bind_ok, Res.pure_ok] at h
  obtain ⟨_, h, rfl⟩ := h
  exact F.trans (F.eflags _ _ (sameOutside_mono hb (sameOutside_setStatus _ _))) (F.regs _ _)

/-- One STOS. -/
theorem Frame.stosOne (s t : State) (w) (h : stosOne w s = .ok t) : P s t := by
  simp only [Machine.stosOne, Res.bind_ok, Res.pure_ok] at h
  obtain ⟨_, h, rfl⟩ := h
  exact F.trans (F.memWrite _ _ _ _ _ _ h) (F.regs _ _)

/-- SGDT, SIDT. -/
theorem Frame.storeTable (s t : State) (g rm) (h : storeTable g rm s = .ok t) : P s t := by
  unfold Machine.storeTable at h
  split at h
  · simp at h
  · simp only [Res.bind_ok, Res.pure_ok] at h
    obtain ⟨_, h, rfl⟩ := h
    exact F.trans (F.pokes _ _ _ (s.tableAccess_ok _ _ h).2) (F.advance _)

/-- SLDT, STR, SMSW. -/
theorem Frame.storeWord (s t : State) (v rm) (h : storeWord v rm s = .ok t) : P s t := by
  unfold Machine.storeWord at h
  split at h
  · split at h <;> cases h <;> exact F.trans (F.setReg _ _ _ _) (F.advance _)
  · simp only [Res.bind_ok, Res.pure_ok] at h
    obtain ⟨_, h, rfl⟩ := h
    exact F.trans (F.memWrite _ _ _ _ _ _ h) (F.advance _)

/-- VERR, VERW. -/
theorem Frame.verifyRm (s t : State) (f rm) (hb : 6 ∈ bits) (h : verifyRm f rm s = .ok t) : P s t := by
  simp only [Machine.verifyRm, Res.bind_ok, Res.pure_ok] at h
  obtain ⟨_, _, _, _, _, _, rfl⟩ := h
  exact F.trans (F.eflags _ _ (sameOutside_setFlag .zf _ hb (sameOutside_refl _ _))) (F.advance _)

/-- One step of WAIT. -/
theorem Frame.waitStep (s t : State) (h : waitStep s = .ok t) : P s t := by
  unfold Machine.waitStep at h
  split at h
  · simp at h
  · split at h
    · simp at h
    · split at h <;> cases h
      · exact F.stay _
      · exact F.trans (F.commit _) (F.advance _)

/-- XCHG. -/
theorem Frame.exchange (s t : State) (w rm r) (h : exchange w rm r s = .ok t) : P s t := by
  cases rm with
  | reg x =>
    simp only [Machine.exchange, Except.ok.injEq] at h
    subst h
    exact F.trans (F.trans (F.setReg _ _ _ _) (F.setReg _ _ _ _)) (F.advance _)
  | mem m =>
    simp only [Machine.exchange, Res.bind_ok, Res.pure_ok] at h
    obtain ⟨⟨ws, rs⟩, h1, rfl⟩ := h
    have stored := fun u : State => F.exchangeBytes u ws (valueBytes w (s.reg w r)) (s.accessRmw_ok _ _ _ _ _ h1).2.2.1
    exact F.trans (F.trans (F.setReg _ _ _ _) (stored _)) (F.advance _)

/-- XLATB. -/
theorem Frame.translate (s t : State) (h : translate s = .ok t) : P s t := by
  simp only [Machine.translate, Res.bind_ok, Res.pure_ok] at h
  obtain ⟨_, h, rfl⟩ := h
  exact F.trans (F.setReg _ _ _ _) (F.advance _)

/-- STI. -/
theorem Frame.sti (s t : State) (hb : 9 ∈ bits) (h : enableInterrupts s = .ok t) : P s t := by
  simp only [Machine.enableInterrupts, Res.bind_ok, Res.pure_ok] at h
  obtain ⟨_, h, rfl⟩ := h
  exact F.trans (F.trans (F.eflags _ _ (sameOutside_setFlag .fi _ hb (sameOutside_refl _ _))) (F.advance _)) (F.inhibit _ _)

/-- Every instruction. -/
theorem Frame.exec (s t : State) (i : Instr) (hs : writtenSegs i ⊆ segs) (hb : writtenBits i ⊆ bits)
    (h : exec i s = .next t) : P s t := by
  cases i with
  | popRm rm =>
    replace h := (conclude_next _ _ _).1 h
    cases rm
    · exact F.popReg _ _ _ _ h
    · exact F.popMem _ _ _ _ h
  | popR _ => exact F.popReg _ _ _ _ ((conclude_next s t _).1 h)
  | popEs => exact F.popSeg _ _ _ (hs (by simp [writtenSegs])) ((conclude_next s t _).1 h)
  | popSs =>
    replace h := (conclude_next _ _ _).1 h
    simp only [Res.bind_ok, Res.pure_ok] at h
    obtain ⟨_, h, rfl⟩ := h
    exact F.trans (F.popSeg _ _ _ (hs (by simp [writtenSegs])) h) (F.inhibit _ _)
  | popDs => exact F.popSeg _ _ _ (hs (by simp [writtenSegs])) ((conclude_next s t _).1 h)
  | popFs => exact F.popSeg _ _ _ (hs (by simp [writtenSegs])) ((conclude_next s t _).1 h)
  | popGs => exact F.popSeg _ _ _ (hs (by simp [writtenSegs])) ((conclude_next s t _).1 h)
  | popa => exact F.popAll _ _ _ ((conclude_next s t _).1 h)
  | popad => exact F.popAll _ _ _ ((conclude_next s t _).1 h)
  | popf => exact F.popFlags _ _ _ hb ((conclude_next s t _).1 h)
  | popfd => exact F.popFlags _ _ _ hb ((conclude_next s t _).1 h)
  | pushRm rm =>
    replace h := (conclude_next _ _ _).1 h
    simp only [Res.bind_ok] at h
    obtain ⟨_, _, h⟩ := h
    exact F.pushValue _ _ _ _ h
  | pushR _ => exact F.pushValue _ _ _ _ ((conclude_next s t _).1 h)
  | pushFs => exact F.pushValue _ _ _ _ ((conclude_next s t _).1 h)
  | pushGs => exact F.pushValue _ _ _ _ ((conclude_next s t _).1 h)
  | pushEs => exact F.pushValue _ _ _ _ ((conclude_next s t _).1 h)
  | pushCs => exact F.pushValue _ _ _ _ ((conclude_next s t _).1 h)
  | pushSs => exact F.pushValue _ _ _ _ ((conclude_next s t _).1 h)
  | pushDs => exact F.pushValue _ _ _ _ ((conclude_next s t _).1 h)
  | pushImm _ => exact F.pushValue _ _ _ _ ((conclude_next s t _).1 h)
  | pushImm8 _ => exact F.pushValue _ _ _ _ ((conclude_next s t _).1 h)
  | pusha => exact F.pushAll _ _ _ ((conclude_next s t _).1 h)
  | pushad => exact F.pushAll _ _ _ ((conclude_next s t _).1 h)
  | pushf => exact F.pushFlags _ _ _ _ ((conclude_next s t _).1 h)
  | pushfd => exact F.pushFlags _ _ _ _ ((conclude_next s t _).1 h)
  | rol1 _ _ => exact F.shiftRm _ _ .rol _ _ _ hb ((conclude_next s t _).1 h)
  | rolCl _ _ => exact F.shiftRm _ _ .rol _ _ _ hb ((conclude_next s t _).1 h)
  | rolImm _ _ _ => exact F.shiftRm _ _ .rol _ _ _ hb ((conclude_next s t _).1 h)
  | ror1 _ _ => exact F.shiftRm _ _ .ror _ _ _ hb ((conclude_next s t _).1 h)
  | rorCl _ _ => exact F.shiftRm _ _ .ror _ _ _ hb ((conclude_next s t _).1 h)
  | rorImm _ _ _ => exact F.shiftRm _ _ .ror _ _ _ hb ((conclude_next s t _).1 h)
  | rcl1 _ _ => exact F.shiftRm _ _ .rcl _ _ _ hb ((conclude_next s t _).1 h)
  | rclCl _ _ => exact F.shiftRm _ _ .rcl _ _ _ hb ((conclude_next s t _).1 h)
  | rclImm _ _ _ => exact F.shiftRm _ _ .rcl _ _ _ hb ((conclude_next s t _).1 h)
  | rcr1 _ _ => exact F.shiftRm _ _ .rcr _ _ _ hb ((conclude_next s t _).1 h)
  | rcrCl _ _ => exact F.shiftRm _ _ .rcr _ _ _ hb ((conclude_next s t _).1 h)
  | rcrImm _ _ _ => exact F.shiftRm _ _ .rcr _ _ _ hb ((conclude_next s t _).1 h)
  | shl1 _ _ => exact F.shiftRm _ _ .shl _ _ _ hb ((conclude_next s t _).1 h)
  | shlCl _ _ => exact F.shiftRm _ _ .shl _ _ _ hb ((conclude_next s t _).1 h)
  | shlImm _ _ _ => exact F.shiftRm _ _ .shl _ _ _ hb ((conclude_next s t _).1 h)
  | shr1 _ _ => exact F.shiftRm _ _ .shr _ _ _ hb ((conclude_next s t _).1 h)
  | shrCl _ _ => exact F.shiftRm _ _ .shr _ _ _ hb ((conclude_next s t _).1 h)
  | shrImm _ _ _ => exact F.shiftRm _ _ .shr _ _ _ hb ((conclude_next s t _).1 h)
  | sar1 _ _ => exact F.shiftRm _ _ .sar _ _ _ hb ((conclude_next s t _).1 h)
  | sarCl _ _ => exact F.shiftRm _ _ .sar _ _ _ hb ((conclude_next s t _).1 h)
  | sarImm _ _ _ => exact F.shiftRm _ _ .sar _ _ _ hb ((conclude_next s t _).1 h)
  | shldImm _ _ _ => exact F.doubleRm _ _ _ _ _ _ hb ((conclude_next s t _).1 h)
  | shldCl _ _ => exact F.doubleRm _ _ _ _ _ _ hb ((conclude_next s t _).1 h)
  | shrdImm _ _ _ => exact F.doubleRm _ _ _ _ _ _ hb ((conclude_next s t _).1 h)
  | shrdCl _ _ => exact F.doubleRm _ _ _ _ _ _ hb ((conclude_next s t _).1 h)
  | retNear => exact F.retNearBy _ _ _ ((conclude_next s t _).1 h)
  | retNearImm _ => exact F.retNearBy _ _ _ ((conclude_next s t _).1 h)
  | retFar => exact F.retFarBy _ _ _ (fun r => hs (by cases r <;> simp [writtenSegs])) ((conclude_next s t _).1 h)
  | retFarImm _ => exact F.retFarBy _ _ _ (fun r => hs (by cases r <;> simp [writtenSegs])) ((conclude_next s t _).1 h)
  | sahf =>
    cases (conclude_next s _ (.ok _)).1 h
    exact F.trans (F.eflags _ _ (sameOutside_mono hb (sameOutside_sahf _ _))) (F.advance _)
  | seto _ => exact F.setCond _ _ _ _ ((conclude_next s t _).1 h)
  | setno _ => exact F.setCond _ _ _ _ ((conclude_next s t _).1 h)
  | setb _ => exact F.setCond _ _ _ _ ((conclude_next s t _).1 h)
  | setnb _ => exact F.setCond _ _ _ _ ((conclude_next s t _).1 h)
  | sete _ => exact F.setCond _ _ _ _ ((conclude_next s t _).1 h)
  | setne _ => exact F.setCond _ _ _ _ ((conclude_next s t _).1 h)
  | setbe _ => exact F.setCond _ _ _ _ ((conclude_next s t _).1 h)
  | setnbe _ => exact F.setCond _ _ _ _ ((conclude_next s t _).1 h)
  | sets _ => exact F.setCond _ _ _ _ ((conclude_next s t _).1 h)
  | setns _ => exact F.setCond _ _ _ _ ((conclude_next s t _).1 h)
  | setp _ => exact F.setCond _ _ _ _ ((conclude_next s t _).1 h)
  | setnp _ => exact F.setCond _ _ _ _ ((conclude_next s t _).1 h)
  | setl _ => exact F.setCond _ _ _ _ ((conclude_next s t _).1 h)
  | setnl _ => exact F.setCond _ _ _ _ ((conclude_next s t _).1 h)
  | setle _ => exact F.setCond _ _ _ _ ((conclude_next s t _).1 h)
  | setnle _ => exact F.setCond _ _ _ _ ((conclude_next s t _).1 h)
  | stc =>
    cases (conclude_next s _ (.ok _)).1 h
    exact F.trans (F.eflags _ _ (sameOutside_setFlag _ _ (hb (by simp [writtenBits, Flag.pos])) (sameOutside_refl _ _)))
     (F.advance _)
  | std =>
    cases (conclude_next s _ (.ok _)).1 h
    exact F.trans (F.eflags _ _ (sameOutside_setFlag _ _ (hb (by simp [writtenBits, Flag.pos])) (sameOutside_refl _ _)))
     (F.advance _)
  | sti => exact F.sti _ _ (hb (by simp [writtenBits])) ((conclude_next s t _).1 h)
  | sbbRmR _ _ _ => exact F.subRm _ _ _ _ _ _ hb ((conclude_next s t _).1 h)
  | sbbRRm _ _ _ => exact F.subReg _ _ _ _ _ _ hb ((conclude_next s t _).1 h)
  | sbbRmImm _ _ _ _ => exact F.subRm _ _ _ _ _ _ hb ((conclude_next s t _).1 h)
  | sbbAccImm _ _ => exact F.subRm _ _ _ _ (.reg accNum) _ hb ((conclude_next s t _).1 h)
  | testRmR _ _ _ => exact F.testRm _ _ _ _ _ hb ((conclude_next s t _).1 h)
  | testRmImm _ _ _ => exact F.testRm _ _ _ _ _ hb ((conclude_next s t _).1 h)
  | testAccImm _ _ => exact F.testRm _ _ _ (.reg accNum) _ hb ((conclude_next s t _).1 h)
  | subRmR _ _ _ => exact F.subRm _ _ _ _ _ _ hb ((conclude_next s t _).1 h)
  | subRRm _ _ _ => exact F.subReg _ _ _ _ _ _ hb ((conclude_next s t _).1 h)
  | subRmImm _ _ _ _ => exact F.subRm _ _ _ _ _ _ hb ((conclude_next s t _).1 h)
  | subAccImm _ _ => exact F.subRm _ _ _ _ (.reg accNum) _ hb ((conclude_next s t _).1 h)
  | xorRmR _ _ _ => exact F.xorRm _ _ _ _ _ hb ((conclude_next s t _).1 h)
  | xorRRm _ _ _ => exact F.xorReg _ _ _ _ _ hb ((conclude_next s t _).1 h)
  | xorRmImm _ _ _ _ => exact F.xorRm _ _ _ _ _ hb ((conclude_next s t _).1 h)
  | xorAccImm _ _ => exact F.xorRm _ _ _ (.reg accNum) _ hb ((conclude_next s t _).1 h)
  | scasb => exact F.repeated _ _ _ _ (fun t ht => F.scasOne _ _ _ hb ht) ((conclude_next s t _).1 h)
  | scasw => exact F.repeated _ _ _ _ (fun t ht => F.scasOne _ _ _ hb ht) ((conclude_next s t _).1 h)
  | scasd => exact F.repeated _ _ _ _ (fun t ht => F.scasOne _ _ _ hb ht) ((conclude_next s t _).1 h)
  | stosb => exact F.repeated _ _ _ _ (fun t ht => F.stosOne _ _ _ ht) ((conclude_next s t _).1 h)
  | stosw => exact F.repeated _ _ _ _ (fun t ht => F.stosOne _ _ _ ht) ((conclude_next s t _).1 h)
  | stosd => exact F.repeated _ _ _ _ (fun t ht => F.stosOne _ _ _ ht) ((conclude_next s t _).1 h)
  | repPfx => cases h; exact F.cur _ _
  | repnePfx => cases h; exact F.cur _ _
  | sgdt _ => exact F.storeTable _ _ _ _ ((conclude_next s t _).1 h)
  | sidt _ => exact F.storeTable _ _ _ _ ((conclude_next s t _).1 h)
  | sldt rm =>
    replace h := (conclude_next _ _ _).1 h
    simp only [Res.bind_ok] at h
    obtain ⟨_, _, h⟩ := h
    exact F.storeWord _ _ _ _ h
  | smsw _ => exact F.storeWord _ _ _ _ ((conclude_next s t _).1 h)
  | str rm =>
    replace h := (conclude_next _ _ _).1 h
    simp only [Res.bind_ok] at h
    obtain ⟨_, _, h⟩ := h
    exact F.storeWord _ _ _ _ h
  | verr _ => exact F.verifyRm _ _ _ _ (hb (by simp [writtenBits])) ((conclude_next s t _).1 h)
  | verw _ => exact F.verifyRm _ _ _ _ (hb (by simp [writtenBits])) ((conclude_next s t _).1 h)
  | wait => exact F.waitStep _ _ ((conclude_next s t _).1 h)
  | xchgRmR _ _ _ => exact F.exchange _ _ _ _ _ ((conclude_next s t _).1 h)
  | xchgAccR _ => exact F.exchange _ _ _ (.reg accNum) _ ((conclude_next s t _).1 h)
  | xlatb => exact F.translate _ _ ((conclude_next s t _).1 h)
  | opSizePfx => cases h; exact F.cur _ _
  | addrSizePfx => cases h; exact F.cur _ _
  | csPfx => cases h; exact F.cur _ _
  | ssPfx => cases h; exact F.cur _ _
  | dsPfx => cases h; exact F.cur _ _
  | esPfx => cases h; exact F.cur _ _
  | fsPfx => cases h; exact F.cur _ _
  | gsPfx => cases h; exact F.cur _ _
  | lockPfx => cases h; exact F.cur _ _

omit F in
/-- No instruction writes a reserved flag, RF or VM. -/
theorem writtenBits_subset (i : Instr) : writtenBits i ⊆ popfBits := by
  unfold writtenBits
  split <;> decide

omit F in
/-- A step keeps the relation when the sample and the count of the step do. -/
theorem Frame.step (F : Frame [.es, .cs, .ss, .ds, .fs, .gs] popfBits P) (hs : ∀ s : State, P s s.sample)
    (hd : ∀ (s : State) n, P s { s with draws := n }) (s t : State) (h : step s = .next t) : P s t := by
  have he : ∀ s t i, Machine.exec i s = .next t → P s t := fun s t i h =>
    F.exec s t i (fun r _ => by cases r <;> decide) (writtenBits_subset i) h
  have hr : ∀ f s t, runItems f s = .next t → P s t := by
    intro f
    induction f with
    | zero => intro s t h; simp [runItems] at h
    | succ f ih =>
      intro s t h
      simp only [runItems] at h
      split at h
      · rename_i e _; cases e <;> simp [stopped] at h
      · split at h
        · split at h
          · rename_i hx; exact F.trans (he _ _ _ hx) (ih _ _ h)
          · exact he _ _ _ h
        · split at h
          · rename_i e _; cases e <;> simp [stopped] at h
          · exact F.trans (F.cur _ _) (he _ _ _ h)
  simp only [Machine.step, stepSampled] at h
  split at h
  · cases h
  · split at h
    · cases h
    · split at h
      · rename_i hh; cases h
        exact F.trans (F.trans (F.trans (hs _) (F.cur _ _)) (hr _ _ _ hh)) (hd _ _)
      · rename_i hno; exact absurd h (hno _)

end Sys2Proof.Machine
end

