-- ==== Sys2Proof/Tests/Slice0.lean ====
section
/-! SUPPORT. The model's own tests. Expected results come from spec/95_test_vectors.md (cited as V and X) or are worked out by
hand from the rule cited; words are written out from the encodings of 30_encoding R127–R128. -/

namespace Sys2Proof.Tests

open Sys2Proof Sys2Proof.Machine

set_option Elab.async false

/-! ## Ill-formed instructions are refused -/

/-- Each check of WellFormed, with a term it refuses. -/
theorem test_wf_refuses :
    [ -- a 16-bit memory form under AS = 32, and the forms of 16-bit addressing that do not exist
      WellFormed ⟨.s16, .s32⟩ (.pushRm (.mem (.base16 .si .none))),
      WellFormed ⟨.s16, .s16⟩ (.pushRm (.mem (.base16 .bp .none))),
      WellFormed ⟨.s16, .s32⟩ (.popRm (.mem (.abs16 0))),
      -- 32-bit memory forms under AS = 16, and those ModRM cannot express
      WellFormed ⟨.s16, .s16⟩ (.rol1 true (.mem (.base32 .n0 .none))),
      WellFormed ⟨.s16, .s32⟩ (.seto (.mem (.base32 .n4 .none))),
      WellFormed ⟨.s16, .s32⟩ (.sgdt (.mem (.base32 .n5 .none))),
      WellFormed ⟨.s16, .s16⟩ (.shldCl (.mem (.abs32 0)) .n0),
      WellFormed ⟨.s16, .s16⟩ (.subRmR true (.mem (.sib .x1 .n0 .n0 .none)) .n0),
      WellFormed ⟨.s16, .s32⟩ (.xchgRmR true (.mem (.sib .x1 .n0 .n5 .none)) .n0),
      WellFormed ⟨.s16, .s16⟩ (.sbbRRm true .n0 (.mem (.sibAbs .x1 .n0 0))),
      -- mnemonics bound to the other operand size
      WellFormed ⟨.s32, .s32⟩ .popa, WellFormed ⟨.s32, .s32⟩ .popf, WellFormed ⟨.s32, .s32⟩ .pusha,
      WellFormed ⟨.s32, .s32⟩ .pushf, WellFormed ⟨.s32, .s32⟩ .scasw, WellFormed ⟨.s32, .s32⟩ .stosw,
      WellFormed ⟨.s16, .s16⟩ .popad, WellFormed ⟨.s16, .s16⟩ .popfd, WellFormed ⟨.s16, .s16⟩ .pushad,
      WellFormed ⟨.s16, .s16⟩ .pushfd, WellFormed ⟨.s16, .s16⟩ .scasd, WellFormed ⟨.s16, .s16⟩ .stosd,
      -- immediates of the wrong size
      WellFormed ⟨.s16, .s16⟩ (.pushImm (.i8 0)),
      WellFormed ⟨.s16, .s16⟩ (.subAccImm true (.i32 0)),
      WellFormed ⟨.s32, .s32⟩ (.testAccImm true (.i16 0)),
      WellFormed ⟨.s32, .s32⟩ (.testRmImm false (.reg .n0) (.i32 0)),
      WellFormed ⟨.s32, .s32⟩ (.xorRmImm true true (.reg .n0) (.i32 0)),
      WellFormed ⟨.s32, .s32⟩ (.sbbRmImm false true (.reg .n0) (.i8 0)) ].all (fun b => !b) = true := by decide

/-! ## Words -/

/-- The bytes decode to the instruction, with none left, under two size attributes. -/
def decodes (os as : OSize) (bs : List Byte) (i : Instr) : Bool :=
  decide (decodeItem ⟨os, as⟩ bs = .ok (i, []))

/-- Stack family (40_stack): 01011rrr POP, 8F /0, 000rr111 and 0F 1r1 00 1, 61, 9D. -/
theorem test_decode_pop :
    [ decodes .s32 .s32 [0b01011101] (.popR .n5),
      decodes .s32 .s32 [0b10001111, 0b00_000_011] (.popRm (.mem (.base32 .n3 .none))),
      decodes .s32 .s32 [0b10001111, 0b01_000_100, 0b00_100_100, 8] (.popRm (.mem (.sib .x1 .n4 .n4 (.d8 8)))),
      decodes .s16 .s16 [0b00000111] .popEs, decodes .s16 .s16 [0b00010111] .popSs,
      decodes .s16 .s16 [0b00011111] .popDs, decodes .s16 .s16 [0x0F, 0b10100001] .popFs,
      decodes .s16 .s16 [0x0F, 0b10101001] .popGs, decodes .s16 .s16 [0b01100001] .popa,
      decodes .s32 .s16 [0b01100001] .popad, decodes .s16 .s32 [0b10011101] .popf,
      decodes .s32 .s32 [0b10011101] .popfd ].all id = true := by decide +kernel

/-- 01010rrr PUSH, FF /6, 000rr110 and 0F 10r 000, 68, 6A, 60, 9C. -/
theorem test_decode_push :
    [ decodes .s32 .s32 [0b01010100] (.pushR .n4),
      decodes .s32 .s32 [0b11111111, 0b11_110_001] (.pushRm (.reg .n1)),
      decodes .s16 .s16 [0b00000110] .pushEs, decodes .s16 .s16 [0b00001110] .pushCs,
      decodes .s16 .s16 [0b00010110] .pushSs, decodes .s16 .s16 [0b00011110] .pushDs,
      decodes .s16 .s16 [0x0F, 0b10100000] .pushFs, decodes .s16 .s16 [0x0F, 0b10101000] .pushGs,
      decodes .s16 .s16 [0b01101000, 0x34, 0x12] (.pushImm (.i16 0x1234)),
      decodes .s32 .s32 [0b01101000, 0x78, 0x56, 0x34, 0x12] (.pushImm (.i32 0x12345678)),
      decodes .s32 .s32 [0b01101010, 0xFF] (.pushImm8 0xFF),
      decodes .s16 .s16 [0b01100000] .pusha, decodes .s32 .s32 [0b01100000] .pushad,
      decodes .s16 .s16 [0b10011100] .pushf, decodes .s32 .s32 [0b10011100] .pushfd ].all id = true := by decide +kernel

/-- 1101000w, 1101001w and 1100000w ib with the extensions ROL 0, ROR 1, RCL 2, RCR 3, SHL 4, SHR 5, SAR 7. -/
theorem test_decode_shift :
    [ decodes .s32 .s32 [0b11010001, 0b11_000_001] (.rol1 true (.reg .n1)),
      decodes .s32 .s32 [0b11010010, 0b11_000_001] (.rolCl false (.reg .n1)),
      decodes .s32 .s32 [0b11000001, 0b11_000_001, 8] (.rolImm true (.reg .n1) 8),
      decodes .s32 .s32 [0b11010000, 0b11_001_001] (.ror1 false (.reg .n1)),
      decodes .s32 .s32 [0b11010011, 0b11_001_001] (.rorCl true (.reg .n1)),
      decodes .s32 .s32 [0b11000000, 0b11_001_001, 4] (.rorImm false (.reg .n1) 4),
      decodes .s32 .s32 [0b11010001, 0b11_010_001] (.rcl1 true (.reg .n1)),
      decodes .s32 .s32 [0b11010011, 0b11_010_001] (.rclCl true (.reg .n1)),
      decodes .s32 .s32 [0b11000000, 0b11_010_001, 9] (.rclImm false (.reg .n1) 9),
      decodes .s32 .s32 [0b11010000, 0b11_011_001] (.rcr1 false (.reg .n1)),
      decodes .s32 .s32 [0b11010010, 0b11_011_001] (.rcrCl false (.reg .n1)),
      decodes .s32 .s32 [0b11000001, 0b11_011_001, 17] (.rcrImm true (.reg .n1) 17),
      decodes .s32 .s32 [0b11010001, 0b00_100_011] (.shl1 true (.mem (.base32 .n3 .none))),
      decodes .s32 .s32 [0b11010011, 0b11_100_001] (.shlCl true (.reg .n1)),
      decodes .s32 .s32 [0b11000001, 0b11_100_001, 31] (.shlImm true (.reg .n1) 31),
      decodes .s32 .s32 [0b11010001, 0b11_101_001] (.shr1 true (.reg .n1)),
      decodes .s32 .s32 [0b11010011, 0b11_101_001] (.shrCl true (.reg .n1)),
      decodes .s32 .s32 [0b11000001, 0b11_101_001, 1] (.shrImm true (.reg .n1) 1),
      decodes .s32 .s32 [0b11010001, 0b11_111_001] (.sar1 true (.reg .n1)),
      decodes .s32 .s32 [0b11010011, 0b11_111_001] (.sarCl true (.reg .n1)),
      decodes .s32 .s32 [0b11000001, 0b11_111_001, 1] (.sarImm true (.reg .n1) 1),
      decodes .s32 .s32 [0x0F, 0b10100100, 0b11_000_010, 8] (.shldImm (.reg .n2) .n0 8),
      decodes .s32 .s32 [0x0F, 0b10100101, 0b11_000_010] (.shldCl (.reg .n2) .n0),
      decodes .s32 .s32 [0x0F, 0b10101100, 0b11_000_010, 8] (.shrdImm (.reg .n2) .n0 8),
      decodes .s32 .s32 [0x0F, 0b10101101, 0b11_000_010] (.shrdCl (.reg .n2) .n0) ].all id = true := by decide +kernel

/-- C3, C2, CB, CA; 9E, F9, FD, FB. -/
theorem test_decode_ret_flags :
    [ decodes .s16 .s16 [0b11000011] .retNear, decodes .s16 .s16 [0b11000010, 8, 0] (.retNearImm 8),
      decodes .s16 .s16 [0b11001011] .retFar, decodes .s16 .s16 [0b11001010, 0, 1] (.retFarImm 0x100),
      decodes .s16 .s16 [0b10011110] .sahf, decodes .s16 .s16 [0b11111001] .stc,
      decodes .s16 .s16 [0b11111101] .std, decodes .s16 .s16 [0b11111011] .sti ].all id = true := by decide +kernel

/-- 0F 1001cccc /0: the sixteen conditions in the order of R262. -/
theorem test_decode_setcc :
    ((List.range 16).zip [Instr.seto, .setno, .setb, .setnb, .sete, .setne, .setbe, .setnbe, .sets, .setns, .setp, .setnp,
        .setl, .setnl, .setle, .setnle]).all
      (fun p => decodes .s32 .s32 [0x0F, 0x90 + BitVec.ofNat 8 p.1, 0b11_000_001] (p.2 (.reg .n1))) = true := by
  decide +kernel

/-- 000110dw SBB, 001010dw SUB, 001100dw XOR, 1000010w and 1010100w and 1111011w TEST, 100000sw with /3, /5, /6. -/
theorem test_decode_arith :
    [ decodes .s32 .s32 [0b00011001, 0b11_010_001] (.sbbRmR true (.reg .n1) .n2),
      decodes .s32 .s32 [0b00011011, 0b11_001_010] (.sbbRRm true .n1 (.reg .n2)),
      decodes .s32 .s32 [0b10000011, 0b11_011_001, 7] (.sbbRmImm true true (.reg .n1) (.i8 7)),
      decodes .s32 .s32 [0b00011101, 7, 0, 0, 0] (.sbbAccImm true (.i32 7)),
      decodes .s32 .s32 [0b00011100, 7] (.sbbAccImm false (.i8 7)),
      decodes .s32 .s32 [0b00101001, 0b11_010_001] (.subRmR true (.reg .n1) .n2),
      decodes .s32 .s32 [0b00101011, 0b00_001_011] (.subRRm true .n1 (.mem (.base32 .n3 .none))),
      decodes .s32 .s32 [0b10000001, 0b11_101_001, 7, 0, 0, 0] (.subRmImm false true (.reg .n1) (.i32 7)),
      decodes .s32 .s32 [0b10000010, 0b11_101_001, 1] (.subRmImm true false (.reg .n1) (.i8 1)),
      decodes .s16 .s32 [0b00101101, 7, 0] (.subAccImm true (.i16 7)),
      decodes .s32 .s32 [0b00110000, 0b11_010_001] (.xorRmR false (.reg .n1) .n2),
      decodes .s32 .s32 [0b00110011, 0b11_001_010] (.xorRRm true .n1 (.reg .n2)),
      decodes .s32 .s32 [0b10000000, 0b11_110_001, 0x0F] (.xorRmImm false false (.reg .n1) (.i8 0x0F)),
      decodes .s32 .s32 [0b00110100, 7] (.xorAccImm false (.i8 7)),
      decodes .s32 .s32 [0b10000101, 0b11_010_001] (.testRmR true (.reg .n1) .n2),
      decodes .s32 .s32 [0b11110111, 0b11_000_001, 7, 0, 0, 0] (.testRmImm true (.reg .n1) (.i32 7)),
      decodes .s32 .s32 [0b10101000, 7] (.testAccImm false (.i8 7)) ].all id = true := by decide +kernel

/-- 1010111w SCAS, 1010101w STOS; 0F 00 and 0F 01 with their extensions; 9B, 1000011w, 10010rrr, D7. -/
theorem test_decode_rest :
    [ decodes .s32 .s32 [0b10101110] .scasb, decodes .s16 .s32 [0b10101111] .scasw, decodes .s32 .s32 [0b10101111] .scasd,
      decodes .s32 .s32 [0b10101010] .stosb, decodes .s16 .s32 [0b10101011] .stosw, decodes .s32 .s32 [0b10101011] .stosd,
      decodes .s32 .s32 [0x0F, 1, 0b00_000_101, 0, 0x40, 0, 0] (.sgdt (.mem (.abs32 0x4000))),
      decodes .s32 .s32 [0x0F, 1, 0b00_001_101, 0, 0x40, 0, 0] (.sidt (.mem (.abs32 0x4000))),
      decodes .s32 .s32 [0x0F, 0, 0b11_000_001] (.sldt (.reg .n1)),
      decodes .s32 .s32 [0x0F, 0, 0b11_001_001] (.str (.reg .n1)),
      decodes .s32 .s32 [0x0F, 1, 0b11_100_001] (.smsw (.reg .n1)),
      decodes .s32 .s32 [0x0F, 0, 0b11_100_001] (.verr (.reg .n1)),
      decodes .s32 .s32 [0x0F, 0, 0b11_101_001] (.verw (.reg .n1)),
      decodes .s32 .s32 [0b10011011] .wait, decodes .s32 .s32 [0b11010111] .xlatb,
      decodes .s32 .s32 [0b10000111, 0b11_010_001] (.xchgRmR true (.reg .n1) .n2),
      decodes .s32 .s32 [0b10010011] (.xchgAccR .n3) ].all id = true := by decide +kernel

/-- The prefix bytes of R111. -/
theorem test_decode_prefixes :
    [ decodes .s32 .s32 [0xF3] .repPfx, decodes .s32 .s32 [0xF2] .repnePfx, decodes .s32 .s32 [0x66] .opSizePfx,
      decodes .s32 .s32 [0x67] .addrSizePfx, decodes .s32 .s32 [0x2E] .csPfx, decodes .s32 .s32 [0x36] .ssPfx,
      decodes .s32 .s32 [0x3E] .dsPfx, decodes .s32 .s32 [0x26] .esPfx, decodes .s32 .s32 [0x64] .fsPfx,
      decodes .s32 .s32 [0x65] .gsPfx, decodes .s32 .s32 [0xF0] .lockPfx ].all id = true := by decide +kernel

/-- The rows of 16-bit addressing (R116), mod 00, 01 and 10, and the direct address. -/
theorem test_decode_mem16 :
    [ decodes .s16 .s16 [0xFF, 0b00_110_000] (.pushRm (.mem (.base16 .bxSi .none))),
      decodes .s16 .s16 [0xFF, 0b01_110_110, 0x80] (.pushRm (.mem (.base16 .bp (.d8 0x80)))),
      decodes .s16 .s16 [0xFF, 0b10_110_111, 0x34, 0x12] (.pushRm (.mem (.base16 .bx (.d16 0x1234)))),
      decodes .s16 .s16 [0xFF, 0b00_110_110, 0x34, 0x12] (.pushRm (.mem (.abs16 0x1234))),
      decodes .s16 .s32 [0xFF, 0b00_110_100, 0b10_001_101, 4, 0, 0, 0] (.pushRm (.mem (.sibAbs .x4 .n1 4))) ].all id
      = true := by decide +kernel

/-- V128: slots the source does not define; and bytes that end inside an instruction. -/
theorem test_decode_refuses :
    [[0x8F, 0xC8], [0xFF, 0xC0], [0xD1, 0xF1], [0xF7, 0xC8], [0x0F, 0x00, 0xD0], [0x0F, 0x01, 0xD0], [0x0F, 0x90, 0xC8],
      [0x0F, 0x05]].all
      (fun bs => decide (decodeItem ⟨.s32, .s32⟩ bs = .error .notInSource)) = true ∧
    decodeItem ⟨.s32, .s32⟩ [0x68, 0x34, 0x12] = .error .truncated := by decide +kernel

/-! ## States -/

/-- A flat 32-bit code segment. -/
def flatCode : Descriptor :=
  { kind := .code true false, dpl := 0, present := true, base := 0, limit := 0xFFFFFFFF, big := true }

/-- A flat 32-bit writable data segment. -/
def flatData : Descriptor :=
  { kind := .data true false, dpl := 0, present := true, base := 0, limit := 0xFFFFFFFF, big := true }

/-- A segment register holding a descriptor. -/
def segOf (sel : Word) (d : Descriptor) : SegReg := { selector := sel, cache := d, valid := true }

/-- `S32` of the vectors, its code at 1000h. -/
def s32 : State :=
  { State.reset with
    eip := 0x1000
    cr0 := 0x11
    segs := { es := segOf 0x10 flatData, cs := segOf 8 flatCode, ss := segOf 0x10 flatData, ds := segOf 0x10 flatData,
              fs := segOf 0x10 flatData, gs := segOf 0x10 flatData }
    regs := { eax := 0, ecx := 0, edx := 0, ebx := 0, esp := 0x2000, ebp := 0, esi := 0, edi := 0 } }

/-- `S16` of the vectors, its code at 0100:0000. -/
def s16 : State :=
  { State.reset with
    eip := 0
    segs := { State.reset.segs with
              cs := { State.reset.segs.cs with selector := 0x100, cache := { resetCs.cache with base := 0x1000 } } }
    regs := { eax := 0, ecx := 0, edx := 0, ebx := 0, esp := 0x100, ebp := 0, esi := 0, edi := 0 } }

/-- V86 mode. -/
def v86 : State := { s16 with cr0 := 0x11, eflags := 0x20002 }

/-- S32 at level 3. -/
def user : State :=
  { s32 with segs := { s32.segs with cs := segOf 0x1B { flatCode with dpl := 3 }, ss := segOf 0x23 { flatData with dpl := 3 } } }

/-- Bytes written to memory from an address. -/
def put (s : State) : Nat → List Byte → State
  | _, [] => s
  | a, b :: bs => put { s with mem := Memory.set s.mem a b } (a + 1) bs

/-- One step with these bytes at EIP. -/
def run (bs : List Byte) (s : State) : Host.Outcome State Fault Refusal := step (s.placeBytes 0 bs)

/-- The outcome is a next state of which `p` holds. -/
def ok (p : State → Bool) : Host.Outcome State Fault Refusal → Bool
  | .next t => p t
  | _ => false

/-- The outcome is this exception, with this error code, and the registers are as before. -/
def traps (s : State) (x : Exc) (code : Option Word) : Host.Outcome State Fault Refusal → Bool
  | .fault (.raised y c t) => decide (x = y) && decide (c = code) && decide (t.regs = s.regs) && decide (t.eip = s.eip)
  | _ => false

/-- The outcome is Shutdown. -/
def shutsDown : Host.Outcome State Fault Refusal → Bool
  | .fault .shutdown => true
  | _ => false

/-- The outcome is this refusal. -/
def refuses (r : Refusal) : Host.Outcome State Fault Refusal → Bool
  | .refused q => decide (q = r)
  | _ => false

/-- The bytes at addresses from `a`. -/
def mem (t : State) (a n : Nat) : List Byte := (List.range n).map (fun i => Memory.get t.mem (a + i))

/-- S32 with registers EAX, ECX, EDX, EBX. -/
def with4 (a c d b : Dword) : State := { s32 with regs := { s32.regs with eax := a, ecx := c, edx := d, ebx := b } }

/-- S32 with EFLAGS. -/
def withFlags (f : Dword) (s : State) : State := { s with eflags := f }

/-! ## One step of each instruction -/

/-- V1, V2: PUSH of a register. -/
theorem test_push_reg :
    ok (fun t => t.regs.esp == 0x1FFC && mem t 0x1FFC 4 == [0x78, 0x56, 0x34, 0x12] && t.eip == 0x1001)
      (run [0x50] (with4 0x12345678 0 0 0)) = true ∧
    ok (fun t => t.regs.esp == 0x1FFE && mem t 0x1FFE 2 == [0x78, 0x56] && t.eip == 0x1002)
      (run [0x66, 0x50] (with4 0x12345678 0 0 0)) = true := by decide +kernel

/-- V3: PUSH ESP pushes the old value. V23: PUSH of memory. -/
theorem test_push_esp_mem :
    ok (fun t => mem t 0x1FFC 4 == [0x00, 0x20, 0, 0]) (run [0x54] s32) = true ∧
    ok (fun t => mem t 0x1FFC 4 == [4, 3, 2, 1]) (run [0xFF, 0x33] (put (with4 0 0 0 0x3000) 0x3000 [4, 3, 2, 1])) = true := by
  decide +kernel

/-- V4: PUSH of an immediate. -/
theorem test_push_imm :
    ok (fun t => mem t 0x1FFC 4 == [0xFF, 0xFF, 0xFF, 0xFF]) (run [0x6A, 0xFF] s32) = true ∧
    ok (fun t => mem t 0x1FFC 4 == [0x78, 0x56, 0x34, 0x12]) (run [0x68, 0x78, 0x56, 0x34, 0x12] s32) = true := by
  decide +kernel

/-- X5, V26: PUSH of a segment register, zero-extended. -/
theorem test_push_seg :
    [[0x1E], [0x06], [0x16], [0x0F, 0xA0], [0x0F, 0xA8]].all
      (fun bs => ok (fun t => mem t 0x1FFC 4 == [0x10, 0, 0, 0]) (run bs s32)) = true ∧
    ok (fun t => mem t 0x1FFC 4 == [8, 0, 0, 0]) (run [0x0E] s32) = true := by decide +kernel

/-- S16 with the registers of V5. -/
def v5 : State :=
  { s16 with regs := { eax := 0x1111, ecx := 0x2222, edx := 0x3333, ebx := 0x4444, esp := 0x100, ebp := 0x5555,
                       esi := 0x6666, edi := 0x7777 } }

/-- V5: PUSHA. -/
theorem test_pusha :
    ok (fun t => t.regs.esp == 0xF0 && mem t 0xF0 16 ==
      [0x77, 0x77, 0x66, 0x66, 0x55, 0x55, 0x00, 0x01, 0x44, 0x44, 0x33, 0x33, 0x22, 0x22, 0x11, 0x11]) (run [0x60] v5)
      = true := by decide +kernel

/-- V6: PUSHAD: the old ESP in the fourth place from below. -/
theorem test_pushad :
    ok (fun t => t.regs.esp == 0x1FE0 && mem t 0x1FEC 4 == [0, 0x20, 0, 0] && mem t 0x1FFC 4 == [0xA0, 0, 0, 0])
      (run [0x60] (with4 0xA0 0 0 0)) = true := by decide +kernel

/-- V7: POPA drops the fourth item. -/
theorem test_popa :
    ok (fun t => t.regs == { v5.regs with esp := 0x100 })
      (run [0x61] (put { s16 with regs := { s16.regs with esp := 0xF0 } } 0xF0
        [0x77, 0x77, 0x66, 0x66, 0x55, 0x55, 0xEF, 0xBE, 0x44, 0x44, 0x33, 0x33, 0x22, 0x22, 0x11, 0x11])) = true := by
  decide +kernel

/-- V8: POPAD. -/
theorem test_popad :
    ok (fun t => t.regs.esp == 0x2020 && t.regs.edi == 1 && t.regs.ebp == 2 && t.regs.eax == 3)
      (run [0x61] (put s32 0x2000 ([1, 0, 0, 0, 9, 0, 0, 0, 2, 0, 0, 0] ++ List.replicate 16 0 ++ [3, 0, 0, 0]))) = true := by
  decide +kernel

/-- V9, V11: POPFD at level 0, and that RF and VM are not written. -/
theorem test_popfd :
    ok (fun t => t.eflags == 0x3AD7 && t.regs.esp == 0x2004) (run [0x9D] (put s32 0x2000 [0xD7, 0x3A])) = true ∧
    ok (fun t => t.eflags == 2) (run [0x9D] (put s32 0x2000 [0, 0, 3])) = true ∧
    refuses .singleStep (run [0x9D] (put s32 0x2000 [0, 1, 0, 0])) = true := by decide +kernel

/-- V10: POPF at level 3 with IOPL 0 leaves IF and IOPL. V16: V86 mode with IOPL 2. -/
theorem test_popf :
    ok (fun t => t.eflags == 0x203 && t.regs.esp == 0x2002)
      (run [0x66, 0x9D] (put (withFlags 0x202 user) 0x2000 [0x01, 0x30])) = true ∧
    traps v86 .gp (some 0) (run [0x9D] (withFlags 0x22002 v86)) = true := by decide +kernel

/-- X7: PUSHF and PUSHFD. -/
theorem test_pushf :
    ok (fun t => mem t 0x1FFC 4 == [0x93, 0x0A, 0, 0]) (run [0x9C] (withFlags 0xA93 s32)) = true ∧
    ok (fun t => mem t 0x1FFE 2 == [0x93, 0x0A]) (run [0x66, 0x9C] (withFlags 0xA93 s32)) = true := by decide +kernel

/-- V13, V14: the low stack in real mode: SP = 0 wraps, SP = 1 shuts down. -/
theorem test_low_stack :
    ok (fun t => t.regs.esp == 0xFFFE && mem t 0xFFFE 2 == [0x34, 0x12])
      (run [0x50] { s16 with regs := { s16.regs with eax := 0x1234, esp := 0 } }) = true ∧
    [[0x50], [0x60], [0x9C], [0x66, 0x50]].all
      (fun bs => shutsDown (run bs { s16 with regs := { s16.regs with esp := 1 } })) = true := by
  decide +kernel

/-- S16 with a 32-bit stack segment: with 67h before an instruction the stack pointer is ESP, whichever rule holds. -/
def bigStack (esp : Dword) : State :=
  { s16 with
    segs := { s16.segs with ss := { s16.segs.ss with cache := { resetCache with big := true } } }
    regs := { s16.regs with eax := 0x1234, esp := esp } }

/-- R408, 90 C41 (log 43): a real-mode push whose item crosses FFFFh or lies beyond it, with a 32-bit stack pointer; below it,
the push completes. -/
theorem test_big_stack :
    [(0x10001 : Dword), 0x20000, 0].all (fun esp => shutsDown (run [0x67, 0x50] (bigStack esp))) = true ∧
    ok (fun t => t.regs.esp == 0xFFFE && mem t 0xFFFE 2 == [0x34, 0x12]) (run [0x67, 0x50] (bigStack 0x10000)) = true := by
  decide +kernel

/-- V15: POP with SP = FFFFh: interrupt 12, no error code. -/
theorem test_pop_wrap :
    traps { s16 with regs := { s16.regs with esp := 0xFFFF } } .ss none
      (run [0x58] { s16 with regs := { s16.regs with esp := 0xFFFF } }) = true := by decide +kernel

/-- X1: POP EBP. V21: POP into memory. -/
theorem test_pop :
    ok (fun t => t.regs.ebp == 0x11223344 && t.regs.esp == 0x2004) (run [0x5D] (put s32 0x2000 [0x44, 0x33, 0x22, 0x11]))
      = true ∧
    ok (fun t => mem t 0x3000 4 == [1, 2, 3, 4] && t.regs.esp == 0x2004)
      (run [0x8F, 0x03] (put (with4 0 0 0 0x3000) 0x2000 [1, 2, 3, 4])) = true := by decide +kernel

/-- S32 with a descriptor for selector 10h, another for 48h, and the item at the top of the stack. -/
def popsSel (sel : Word) : State :=
  put { s32 with descs := [⟨4, .found flatData⟩, ⟨18, .found { flatData with dpl := 3, present := false }⟩,
                           ⟨20, .pageFault 4 0xABCD⟩] } 0x2000
    [sel.extractLsb' 0 8, sel.extractLsb' 8 8, 0xFF, 0xFF]

/-- V18: POP of a segment register ignores the upper two bytes; POP SS inhibits interrupts. -/
theorem test_pop_seg :
    [([0x1F], SReg.ds), ([0x07], .es), ([0x0F, 0xA1], .fs), ([0x0F, 0xA9], .gs), ([0x17], .ss)].all
      (fun p => ok (fun t => decide (t.seg p.2 = segOf 0x10 flatData) && t.regs.esp == 0x2004 &&
        t.inhibit == decide (p.2 = .ss)) (run p.1 (popsSel 0x10))) = true := by decide +kernel

/-- V19, V20: a null selector, an absent segment, a descriptor outside its table; R155: for SS row 4 stands before row 7. -/
theorem test_pop_seg_traps :
    traps s32 .gp (some 0) (run [0x17] (popsSel 0)) = true ∧
    traps s32 .gp (some 0x50) (run [0x17] (popsSel 0x51)) = true ∧ traps s32 .pf (some 4) (run [0x17] (popsSel 0x50)) = true ∧
    ok (fun t => !t.segs.es.valid && t.segs.es.selector == 0) (run [0x07] (popsSel 0)) = true ∧
    traps s32 .np (some 0x48) (run [0x0F, 0xA1] (popsSel 0x48)) = true ∧
    traps s32 .gp (some 0x30) (run [0x1F] (popsSel 0x30)) = true := by decide +kernel

/-- Rotates and shifts of ECX by 1: V30, V34, V38, V40c, V41a, and SHR, SAR from R197, R198: result, CF, OF. -/
theorem test_shift_one :
    [((0xD1 : Byte), (0 : Byte), (0x80000001 : Dword), (3 : Dword), true, true),
      (0xD1, 1, 1, 0x80000000, true, true), (0xD1, 2, 0x80000000, 1, true, true), (0xD1, 3, 1, 0x80000000, true, true)].all
      (fun p => ok (fun t => t.regs.ecx == p.2.2.2.1 && flag t.eflags .cf == p.2.2.2.2.1 && flag t.eflags .of == p.2.2.2.2.2)
        (run [p.1, 0xC1 + 8 * p.2.1] (withFlags 3 (with4 0 p.2.2.1 0 0)))) = true ∧
    [((4 : Byte), (0x40000000 : Dword), (0x80000000 : Dword)), (5, 0x80000001, 0x40000000), (7, 0x80000001, 0xC0000000)].all
      (fun p => ok (fun t => t.regs.ecx == p.2.2) (run [0xD1, 0xC1 + 8 * p.1] (with4 0 p.2.1 0 0))) = true := by
  decide +kernel

/-- V32, V37, V39, V40d, V41c and R197, R198: by an immediate, masked to 5 bits. -/
theorem test_shift_imm :
    [((2 : Byte), (4 : Byte), (0x12345678 : Dword), (0x23456780 : Dword)), (0, 8, 0x12345678, 0x34567812),
      (1, 4, 0x12345678, 0x81234567), (4, 31, 1, 0x80000000), (5, 4, 0x80000000, 0x08000000),
      (7, 4, 0x80000000, 0xF8000000), (0, 32, 0x12345678, 0x12345678), (3, 33, 2, 1)].all
      (fun p => ok (fun t => t.regs.ecx == p.2.2.2) (run [0xC1, 0xC1 + 8 * p.1, p.2.1] (with4 0 p.2.2.1 0 0))) = true ∧
    ok (fun t => t.regs.ecx == 0x55E6) (run [0x66, 0xC1, 0xD9, 0x21] (with4 0 0xABCD 0 0)) = true := by decide +kernel

/-- By CL: EDX by 4, ROL, ROR, RCL, RCR, SHL, SHR, SAR (R190–R198). -/
theorem test_shift_cl :
    [((0 : Byte), (0x23456781 : Dword)), (1, 0x81234567), (2, 0x23456780), (3, 0x01234567), (4, 0x23456780), (5, 0x01234567),
      (7, 0x01234567)].all
      (fun p => ok (fun t => t.regs.edx == p.2) (run [0xD3, 0xC2 + 8 * p.1]
        (with4 0 4 0x12345678 0))) = true := by decide +kernel

/-- V45a, V45c, V45d, V46a, V46c: SHLD and SHRD. -/
theorem test_double_shift :
    ok (fun t => t.regs.edx == 0x3456789A && t.regs.eax == 0x9ABCDEF0)
      (run [0x0F, 0xA4, 0xC2, 8] (with4 0x9ABCDEF0 0 0x12345678 0)) = true ∧
    ok (fun t => t.regs.edx == 0xABCD) (run [0x66, 0x0F, 0xA4, 0xC2, 16] (with4 0xABCD 0 0x1234 0)) = true ∧
    ok (fun t => t.regs.edx == 0xF0123456) (run [0x0F, 0xAC, 0xC2, 8] (with4 0x9ABCDEF0 0 0x12345678 0)) = true ∧
    ok (fun t => t.regs.edx == 0xFFFFFFFF) (run [0x0F, 0xA5, 0xC2] (with4 0xFFFFFFFF 31 1 0)) = true ∧
    ok (fun t => t.regs.edx == 3) (run [0x0F, 0xAD, 0xC2] (with4 1 31 0x80000000 0)) = true := by decide +kernel

/-- A double shift's flags: V45b, V45f. -/
theorem test_double_shift_flags :
    (doubleShift true 0 0 (5 : Dword) 7 0xAD7 == (5, 0xAD7)) = true ∧ doubleCarry true 1 (0x80000000 : Dword) = true ∧
      doubleCarry false 1 (1 : Dword) = true ∧ doubleCarry true 16 (0x1234 : Word) = false := by decide +kernel

/-- V47, V48, V49, V50: RET near. -/
theorem test_ret_near :
    ok (fun t => t.eip == 0x1234 && t.regs.esp == 0x2004) (run [0xC3] (put s32 0x2000 [0x34, 0x12])) = true ∧
    ok (fun t => t.eip == 0x1234 && t.regs.esp == 0x200C) (run [0xC2, 8, 0] (put s32 0x2000 [0x34, 0x12])) = true ∧
    ok (fun t => t.eip == 0x1234 && t.regs.esp == 0x2002) (run [0x66, 0xC3] (put s32 0x2000 [0x34, 0x12, 0xCD, 0xAB])) = true ∧
    traps s32 .gp (some 0)
      (run [0xC3] (put { s32 with segs := { s32.segs with cs := segOf 8 { flatCode with limit := 0xFFFF } } } 0x2000 [0, 0, 1]))
      = true := by decide +kernel

/-- V51a, V51b: RET far in real mode. -/
theorem test_ret_far_real :
    ok (fun t => t.eip == 0x10 && t.segs.cs.selector == 0x200 && t.segs.cs.cache.base == 0x2000 && t.regs.esp == 0x104)
      (run [0xCB] (put s16 0x100 [0x10, 0, 0, 2])) = true ∧
    ok (fun t => t.regs.esp == 0x108) (run [0xCA, 4, 0] (put s16 0x100 [0x10, 0, 0, 2])) = true := by decide +kernel

/-- S32 with the return frame of V51c. -/
def v51c (d : Descriptor) : State := put { s32 with descs := [⟨2, .found d⟩] } 0x2000 [0x34, 0x12, 0, 0, 8, 0, 0, 0]

/-- V51c, V51d, V51g, V51h, V51i, V51j: RET far to the same level. -/
theorem test_ret_far_same :
    ok (fun t => t.eip == 0x1234 && t.regs.esp == 0x2008 && t.segs.cs.selector == 8) (run [0xCB] (v51c flatCode)) = true ∧
    traps s32 .gp (some 8) (run [0xCB] (v51c flatData)) = true ∧
    traps s32 .np (some 8) (run [0xCB] (v51c { flatCode with present := false })) = true ∧
    traps s32 .gp (some 8) (run [0xCB] (v51c { flatCode with dpl := 1 })) = true ∧
    traps s32 .gp (some 0) (run [0xCB] (v51c { flatCode with limit := 0xFFF })) = true := by decide +kernel

/-- The state of V51k, the SS image a parameter. -/
def v51k (ssImage : Byte) : State :=
  put { s32 with
        descs := [⟨6, .found { flatCode with dpl := 3 }⟩, ⟨8, .found { flatData with dpl := 3 }⟩, ⟨4, .found flatData⟩]
        segs := { s32.segs with es := segOf 0x23 { flatData with dpl := 3 }, fs := segOf 0 flatData, gs := segOf 0x13 flatData } }
    0x2000 [0, 0, 0x40, 0, 0x1B, 0, 0, 0, 0xF0, 0xFF, 0x12, 0, ssImage, 0, 0, 0]

/-- V51k, V51m: RET far to an outer level. -/
theorem test_ret_far_outer :
    ok (fun t => t.cpl == 3 && t.eip == 0x400000 && t.regs.esp == 0x12FFF0 && t.segs.ss.selector == 0x23 &&
      t.segs.es.selector == 0x23 && t.segs.es.valid && t.segs.gs.selector == 0 && !t.segs.gs.valid) (run [0xCB] (v51k 0x23))
      = true ∧
    traps (v51k 0x21) .gp (some 0x20) (run [0xCB] (v51k 0x21)) = true := by decide +kernel

/-- V51e: no return to an inner level. -/
theorem test_ret_far_inward : traps user .gp (some 8) (run [0xCB] (put user 0x2000 [0x34, 0x12, 0, 0, 8, 0, 0, 0])) = true := by
  decide +kernel

/-- V56, V57, V58: SAHF. -/
theorem test_sahf :
    ok (fun t => t.eflags == 0xD7) (run [0x9E] (with4 0xFF00 0 0 0)) = true ∧
    ok (fun t => t.eflags == 0xA02) (run [0x9E] (withFlags 0xAD7 s32)) = true ∧
    ok (fun t => t.eflags == 2) (run [0x9E] (with4 0x2A00 0 0 0)) = true := by decide +kernel

/-- V52: STC, STD. V53, V54: STI. -/
theorem test_flag_instructions :
    ok (fun t => t.eflags == 3) (run [0xF9] s32) = true ∧ ok (fun t => t.eflags == 0x402) (run [0xFD] s32) = true ∧
    ok (fun t => t.eflags == 0x202 && t.inhibit) (run [0xFB] s16) = true ∧
    ok (fun t => !t.inhibit) (run [0xFB] (withFlags 0x202 s16)) = true ∧
    traps user .gp (some 0) (run [0xFB] user) = true := by decide +kernel

/-- V59: the sixteen SETcc on the flags of 5 − 7. -/
theorem test_setcc :
    ((List.range 16).zip [0, 1, 1, 0, 0, 1, 1, 0, 1, 0, 0, 1, 1, 0, 1, 0]).all
      (fun p => ok (fun t => t.regs.ecx == 0xFFFFFF00 + BitVec.ofNat 32 p.2)
        (run [0x0F, 0x90 + BitVec.ofNat 8 p.1, 0xC1] (withFlags 0x83 (with4 0 0xFFFFFFFF 0 0)))) = true := by decide +kernel

/-- V59b: SETcc of a high byte on ZF = PF = 1. -/
theorem test_setcc_high :
    ((List.range 16).zip [0, 1, 0, 1, 1, 0, 1, 0, 0, 1, 1, 0, 0, 1, 1, 0]).all
      (fun p => ok (fun t => t.regs.ecx == 0x100 * BitVec.ofNat 32 p.2)
        (run [0x0F, 0x90 + BitVec.ofNat 8 p.1, 0xC5] (withFlags 0x46 s32))) = true := by decide +kernel

/-- The flags CF, PF, AF, ZF, SF, OF as a number, in that order. -/
def six (t : Status) : List Bool := [t.cf, t.of, t.sf, t.zf, t.af, t.pf]

/-- V90, V92, V94, V95, V97, V100: subtraction's flags. -/
theorem test_sub_flags :
    six (subFlags (0x80000000 : Dword) 1 false) = [false, true, false, false, true, true] ∧
    six (subFlags (0x7F : Byte) 0xFF false) = [true, true, true, false, false, false] ∧
    six (subFlags (0 : Dword) 0 true) = [true, false, true, false, true, true] ∧
    six (subFlags (0x8000 : Word) 0x7FFF true) = [false, true, false, true, true, true] ∧
    six (subFlags (0 : Dword) 0xFFFFFFFF true) = [true, false, false, true, true, true] ∧
    six (subFlags (5 : Dword) 7 false) = [true, false, true, false, true, false] := by decide

/-- X8, X9, V101–V108: SUB and SBB in every form: 34h − 52h − CF = …E1h, 34h − 7 − CF = 2Ch. -/
theorem test_sub_sbb :
    [([0x19, 0xD1], (0xFFFFFFE1 : Dword)), ([0x1B, 0xCA], 0xFFFFFFE1), ([0x29, 0xD1], 0xFFFFFFE2), ([0x2B, 0xCA], 0xFFFFFFE2),
      ([0x83, 0xD9, 7], 0x2C), ([0x81, 0xE9, 7, 0, 0, 0], 0x2D), ([0x83, 0xE9, 0xFF], 0x35)].all
      (fun p => ok (fun t => t.regs.ecx == p.2 && t.regs.edx == 0x52) (run p.1 (withFlags 3 (with4 0x34 0x34 0x52 0)))) = true ∧
    [([0x1C, 7], (0x2C : Dword)), ([0x1D, 7, 0, 0, 0], 0x2C), ([0x2C, 7], 0x2D), ([0x66, 0x2D, 7, 0], 0x2D)].all
      (fun p => ok (fun t => t.regs.eax == p.2) (run p.1 (withFlags 3 (with4 0x34 0 0 0)))) = true ∧
    ok (fun t => mem t 0x3000 4 == [0xE2, 0xFF, 0xFF, 0xFF] && flag t.eflags .cf)
      (run [0x29, 0x13] (put (with4 0 0 0x52 0x3000) 0x3000 [0x34])) = true := by decide +kernel

/-- X11, V112, V113: XOR in every form. -/
theorem test_xor :
    ok (fun t => t.regs.ebx == 0x0B2D9066) (run [0x33, 0xDA] (with4 0 0 0x0B800052 0x00AD9034)) = true ∧
    ok (fun t => t.regs.ebx == 0x0B2D9066) (run [0x31, 0xD3] (with4 0 0 0x0B800052 0x00AD9034)) = true ∧
    ok (fun t => t.regs.ecx == 0xF0) (run [0x80, 0xF1, 0x0F] (with4 0 0xFF 0 0)) = true ∧
    ok (fun t => t.regs.ecx == 0xFFFF0000) (run [0x83, 0xF1, 0xFF] (with4 0 0xFFFF 0 0)) = true ∧
    ok (fun t => t.regs.eax == 0xF8) (run [0x34, 7] (with4 0xFF 0 0 0)) = true := by decide +kernel

/-- X10, V114, V115: TEST stores nothing, and its flags. -/
theorem test_test :
    [[0x85, 0xD1], [0xF7, 0xC1, 7, 0, 0, 0], [0xA8, 7], [0xF6, 0xC1, 7]].all
      (fun bs => ok (fun t => t.regs == (with4 1 2 3 4).regs) (run bs (with4 1 2 3 4))) = true ∧
    ((logicFlags 0 (0x80000000 : Dword)).sf && !(logicFlags 0 (0x80000000 : Dword)).zf && (logicFlags 0 (0 : Byte)).zf &&
      !(logicFlags 0 (0x00800010 : Dword)).pf) = true := by decide +kernel

/-- V102 beyond the limit of DS; in real mode the two bytes at FFFFh, through DS and through SS. -/
theorem test_limit_faults :
    traps { s32 with regs := { s32.regs with ebx := 0x3FFE } } .gp (some 0)
      (run [0x29, 0x13] { s32 with regs := { s32.regs with ebx := 0x3FFE },
                                   segs := { s32.segs with ds := segOf 0x10 { flatData with limit := 0x3FFF } } }) = true ∧
    traps { s16 with regs := { s16.regs with ebx := 0xFFFF } } .gp none
      (run [0x29, 0x17] { s16 with regs := { s16.regs with ebx := 0xFFFF } }) = true ∧
    traps { s16 with regs := { s16.regs with ebp := 0xFFFF } } .ss none
      (run [0x29, 0x56, 0] { s16 with regs := { s16.regs with ebp := 0xFFFF } }) = true := by decide +kernel

/-- S32 with EDI = 3000h and the string of V62 there. -/
def v62 (eax ecx : Dword) (f : Dword) : State :=
  put (withFlags f { s32 with regs := { s32.regs with eax := eax, ecx := ecx, edi := 0x3000 } }) 0x3008 [7]

/-- V61, and SCASW, SCASD of 7 against 0: ZF, CF, EDI. -/
theorem test_scas :
    ok (fun t => t.eflags == 0x497 && t.regs.edi == 0x2FFF) (run [0xAE] (put (v62 0 0 0x402) 0x3000 [1])) = true ∧
    ok (fun t => !flag t.eflags .zf && t.regs.edi == 0x3002) (run [0x66, 0xAF] (v62 7 0 2)) = true ∧
    ok (fun t => flag t.eflags .zf && t.regs.edi == 0x3004 && t.regs.eax == 0) (run [0xAF] (v62 0 0 2)) = true := by
  decide +kernel

/-- V62, V64, V67: one iteration of a repeated SCAS: it goes on; it ends by its count; a count of 0. -/
theorem test_rep_scas :
    ok (fun t => t.regs.ecx == 4 && t.regs.edi == 0x3004 && t.eip == 0x1000) (run [0xF3, 0xAF] (v62 0 5 2)) = true ∧
    ok (fun t => t.regs.ecx == 0 && t.eip == 0x1002) (run [0xF3, 0xAF] (v62 0 1 2)) = true ∧
    ok (fun t => t.regs.ecx == 4 && t.eip == 0x1002) (run [0xF2, 0xAF] (v62 0 5 2)) = true ∧
    ok (fun t => t.regs.edi == 0x3000 && t.eip == 0x1002) (run [0xF3, 0xAB] (v62 0 0 2)) = true := by decide +kernel

/-- V65, V68: STOS at three widths, and DI wrapping. -/
theorem test_stos :
    [([0xAA], (0x3001 : Dword), ([0xDD, 0, 0, 0] : List Byte)), ([0x66, 0xAB], 0x3002, [0xDD, 0xCC, 0, 0]),
      ([0xAB], 0x3004, [0xDD, 0xCC, 0xBB, 0xAA])].all
      (fun p => ok (fun t => t.regs.edi == p.2.1 && mem t 0x3000 4 == p.2.2) (run p.1 (v62 0xAABBCCDD 0 2))) = true := by
  decide +kernel

/-- V66: one iteration of REP STOSW; V69b: prefixes with no defined effect. -/
theorem test_rep_stos :
    ok (fun t => t.regs.ecx == 2 && t.regs.edi == 0x3002 && t.eip == 0x1000) (run [0xF3, 0x66, 0xAB] (v62 0xBEEF 3 2)) = true ∧
    [[0xF2, 0xAB], [0xF3, 0x50], [0xF3, 0x90]].all (fun bs => refuses .pfxUndefined (run bs (v62 0 3 2))) = true := by
  decide +kernel

/-- S32 with the system registers of V70, V76. -/
def sys : State :=
  { s32 with gdtr := ⟨0x3FF, 0x123456⟩, idtr := ⟨0x7FF, 0x345678⟩, ldtr := { s32.ldtr with selector := 0x28 }, tr := 0x30,
             regs := { s32.regs with ecx := 0xFFFF0000 } }

/-- V70, V71, V72: SGDT, SIDT. -/
theorem test_sgdt_sidt :
    ok (fun t => mem t 0x4000 6 == [0xFF, 3, 0x56, 0x34, 0x12, 0]) (run [0x0F, 1, 5, 0, 0x40, 0, 0] sys) = true ∧
    ok (fun t => mem t 0x4000 6 == [0xFF, 7, 0x78, 0x56, 0x34, 0]) (run [0x0F, 1, 0x0D, 0, 0x40, 0, 0] sys) = true ∧
    [[0x0F, 1, 0xC0], [0x0F, 1, 0xC8]].all (fun bs => traps sys .ud none (run bs sys)) = true := by decide +kernel

/-- V73, V74, V75, V76: SLDT, STR, SMSW. -/
theorem test_system_words :
    [([0x66, 0x0F, 0, 0xC1], (0xFFFF0028 : Dword)), ([0x66, 0x0F, 0, 0xC9], 0xFFFF0030), ([0x66, 0x0F, 1, 0xE1], 0xFFFF0011)].all
      (fun p => ok (fun t => t.regs.ecx == p.2) (run p.1 sys)) = true ∧
    [[0x0F, 0, 0xC0], [0x0F, 0, 0xC8], [0x0F, 0, 0xE0], [0x0F, 0, 0xE8]].all (fun bs => traps s16 .ud none (run bs s16)) = true ∧
    ok (fun t => mem t 0x4000 2 == [0x11, 0]) (run [0x0F, 1, 0x25, 0, 0x40, 0, 0] sys) = true ∧
    ok (fun t => t.regs.eax == 0x10) (run [0x0F, 1, 0xE0] s16) = true := by decide +kernel

/-- V77, V78: VERR, VERW of a readable code segment, of a null selector. -/
theorem test_verr_verw :
    ok (fun t => t.eflags == 0x42) (run [0x0F, 0, 0xE1] { with4 0 0x10 0 0 with descs := [⟨4, .found flatCode⟩] }) = true ∧
    ok (fun t => t.eflags == 2) (run [0x0F, 0, 0xE9] { with4 0 0x10 0 0 with descs := [⟨4, .found flatCode⟩] }) = true ∧
    ok (fun t => t.eflags == 2) (run [0x0F, 0, 0xE1] (withFlags 0x42 s32)) = true := by decide +kernel

/-- V80–V83: WAIT. -/
theorem test_wait :
    ok (fun t => t.eip == 0x1001) (run [0x9B] s32) = true ∧
    ok (fun t => t.eip == 0x1000) (run [0x9B] { s32 with inputs := [⟨⟨true, false, false⟩, []⟩] }) = true ∧
    traps s32 .nm none (run [0x9B] { s32 with cr0 := 0x19, pins := ⟨true, true, false⟩ }) = true ∧
    traps s32 .mf none (run [0x9B] { s32 with pins := ⟨true, true, false⟩ }) = true := by decide +kernel

/-- V84–V88: XCHG. -/
theorem test_xchg :
    ok (fun t => t.regs == (with4 0xAAAA0002 0 0 0xBBBB0001).regs) (run [0x66, 0x93] (with4 0xAAAA0001 0 0 0xBBBB0002)) = true ∧
    ok (fun t => t.regs.ecx == 0x22222222 && mem t 0x3000 4 == [0x11, 0x11, 0x11, 0x11])
      (run [0x87, 0x0B] (put (with4 0 0x11111111 0 0x3000) 0x3000 [0x22, 0x22, 0x22, 0x22])) = true ∧
    ok (fun t => t.regs.ecx == 0x1234) (run [0x86, 0xE9] (with4 0 0x3412 0 0)) = true := by decide +kernel

/-- R88, R95: a pending store to a byte of XCHG is past where its read saw it; where not it stays as it was, raced by an earlier
store or not; one to another byte stays. -/
theorem test_xchg_coprocessor (d : Nat) :
    let c : CopStore := ⟨5, 7, true⟩
    let e : CopStore := ⟨6, 8, false⟩
    splitSeen d [5] 0 [c, e] = if Config.coprocSeen d 5 0 then ([c], [e]) else ([], [c, e]) := by
  cases h : Config.coprocSeen d 5 0 <;> simp [splitSeen, anySeen, h]

/-- R95, R98: a store that loses its race is not in memory when WAIT completes, and may still be fetched. -/
theorem test_lost_store (h : Config.coprocWins 0 0x5000 = false) :
    let t := ({ s32 with draws := 0, coproc := [⟨0x5000, 7, true⟩] } : State).commitStores
    Memory.get t.mem 0x5000 = 0 ∧ t.stale = [(0x5000, 7)] ∧ t.coproc = [] := by
  simp [State.commitStores, State.commitStore, h]; exact ⟨rfl, rfl⟩

/-- V89, V89b, V89c: XLATB. -/
theorem test_xlatb :
    ok (fun t => t.regs.eax == 0xFFFFFF7A) (run [0xD7] (put (with4 0xFFFFFF05 0 0 0x3000) 0x3005 [0x7A])) = true ∧
    ok (fun t => t.regs.eax == 0x99) (run [0x67, 0xD7] (put (with4 2 0 0 0x1234FFFF) 1 [0x99])) = true ∧
    ok (fun t => t.regs.eax == 1) (run [0xD7] (put (with4 0xFF 0 0 0x3000) 0x30FF [1])) = true := by decide +kernel

/-- Prefixes: V127, an override; the first of a group counts; V128 and R136: every LOCK is refused, on an instruction of the
list and elsewhere; fifteen bytes at most. -/
theorem test_prefixes :
    ok (fun t => mem t 0x13000 4 == [0x11, 0, 0, 0])
      (run [0x36, 0x3E, 0x87, 0x0B] { with4 0 0x11 0 0x3000 with
        segs := { s32.segs with ss := segOf 0x10 { flatData with base := 0x10000 } } }) = true ∧
    refuses (.lockPrefix true) (run [0xF0, 0x87, 0x0B] (with4 0 0 0 0x3000)) = true ∧
    [[0xF0, 0x90], [0xF0, 0x87, 0xCB], [0xF0, 0xF3, 0x90]].all (fun bs => refuses (.lockPrefix false) (run bs s32)) = true ∧
    refuses .tooLong (run (List.replicate 15 0x66) s32) = true := by decide +kernel

/-- Segment overrides reach the other segments. -/
theorem test_overrides :
    [((0x2E : Byte), SReg.cs), (0x26, .es), (0x64, .fs), (0x65, .gs), (0x36, .ss)].all
      (fun p => ok (fun t => t.regs.eax == 0x5A)
        (run [p.1, 0xD7] (put ((with4 0 0 0 0x3000).setSeg p.2 (segOf 0x10 { (with4 0 0 0 0).segs.get p.2 |>.cache with limit := 0x3000 }))
          0x3000 [0x5A]))) = true := by decide +kernel

/-- TF = 1 is refused, and so is an opcode outside the source's tables. -/
theorem test_refusals :
    refuses .singleStep (run [0x50] (withFlags 0x102 s32)) = true ∧ refuses .notInSource (run [0x00, 0x00] s32) = true := by
  decide +kernel

/-- The host's placing of a table word is the first instruction after reset. -/
theorem test_withFetchWord :
    decodeTableWord 8 0xF9 = some .stc ∧
    ok (fun t => t.eflags == 3 && t.eip == 0xFFF1) (step (State.reset.withFetchWord 8 0xF9)) = true := by decide +kernel

/-! ## Witnesses: for each obligation with hypotheses, values that meet them -/

/-- A computation that answers. -/
def answers {α : Type} : Res α → Bool
  | .ok _ => true
  | .error _ => false

theorem answers_ok {α : Type} {r : Res α} (h : answers r = true) : ∃ a, r = .ok a := by
  cases r with
  | ok a => exact ⟨a, rfl⟩
  | error e => simp [answers] at h

theorem ok_next {p : State → Bool} {o : Host.Outcome State Fault Refusal} (h : ok p o = true) :
    ∃ t, o = .next t ∧ p t = true := by
  cases o with
  | next t => exact ⟨t, rfl, h⟩
  | fault f => simp [ok] at h
  | refused r => simp [ok] at h

theorem traps_raised {s : State} {x : Exc} {code : Option Word} {o : Host.Outcome State Fault Refusal}
    (h : traps s x code o = true) : ∃ a, o = .fault (.raised x code a) := by
  cases o with
  | next t => simp [traps] at h
  | fault f =>
    cases f with
    | raised y c t =>
      simp only [traps, Bool.and_eq_true, decide_eq_true_eq] at h
      obtain ⟨⟨⟨rfl, rfl⟩, _⟩, _⟩ := h
      exact ⟨t, rfl⟩
    | shutdown => simp [traps] at h
    | interrupt e => simp [traps] at h
  | refused r => simp [traps] at h

theorem shutsDown_shutdown {o : Host.Outcome State Fault Refusal} (h : shutsDown o = true) : o = .fault .shutdown := by
  cases o with
  | next t => simp [shutsDown] at h
  | fault f => cases f <;> simp_all [shutsDown]
  | refused r => simp [shutsDown] at h

theorem refuses_refused {r : Refusal} {o : Host.Outcome State Fault Refusal} (h : refuses r o = true) : o = .refused r := by
  cases o with
  | next t => simp [refuses] at h
  | fault f => simp [refuses] at h
  | refused q => simpa [refuses] using h

/-- DecodeOfEncode. -/
theorem witness_DecodeOfEncode : WellFormed ⟨.s32, .s32⟩ (.pushRm (.mem (.sib .x4 .n1 .n3 (.d32 0x100)))) = true := by decide

/-- EncodeOfDecode. -/
theorem witness_EncodeOfDecode : decodeItem ⟨.s32, .s32⟩ [0x50, 0x51] = .ok (.pushR .n0, [0x51]) := by decide +kernel

/-- StepRunsInstruction: 50, 66 50, and F0 87 0B. -/
theorem witness_StepRunsInstruction :
    (flag (s32.placeBytes 0 [0x50]).eflags .tf = false ∧ (s32.placeBytes 0 [0x50]).sample.interrupted = false ∧
      ({ (s32.placeBytes 0 [0x50]).sample with cur := Cur.idle } : State).fetchItem = .ok (.pushR .n0, 1) ∧
      isPfx (.pushR .n0) = false) ∧
    (let s₀ : State := { (s32.placeBytes 0 [0x66, 0x50]).sample with cur := Cur.idle }
     let u := takePrefix (fun c => { c with os := true }) s₀
     flag (s32.placeBytes 0 [0x66, 0x50]).eflags .tf = false ∧ (s32.placeBytes 0 [0x66, 0x50]).sample.interrupted = false ∧
       s₀.fetchItem = .ok (.opSizePfx, 1) ∧ isPfx .opSizePfx = true ∧ exec .opSizePfx s₀ = .next u ∧
       u.fetchItem = .ok (.pushR .n0, 1) ∧ prefixesFit u.cur (.pushR .n0) = .ok ()) ∧
    (let s₀ : State := { (s32.placeBytes 0 [0xF0, 0x87, 0x0B]).sample with cur := Cur.idle }
     let u := takePrefix (fun c => { c with lock := true }) s₀
     flag (s32.placeBytes 0 [0xF0, 0x87, 0x0B]).eflags .tf = false ∧
       (s32.placeBytes 0 [0xF0, 0x87, 0x0B]).sample.interrupted = false ∧
       s₀.fetchItem = .ok (.lockPfx, 1) ∧ isPfx .lockPfx = true ∧ exec .lockPfx s₀ = .next u ∧
       u.fetchItem = .ok (.xchgRmR true (.mem (.base32 .n3 .none)) .n1, 2)) := by
  exact ⟨by decide +kernel, ⟨by decide +kernel, by decide +kernel, by decide +kernel, by decide +kernel, rfl,
    by decide +kernel, by decide +kernel⟩, by decide +kernel, by decide +kernel, by decide +kernel, by decide +kernel, rfl,
    by decide +kernel⟩

/-- FetchReadsMemory: in protected and in real mode, the last byte of a real-mode segment among them. -/
theorem witness_FetchReadsMemory :
    let s := s32.placeBytes 0 [0xF9]
    let r := { s16 with eip := 0xFFFF }.placeBytes 0 [0xF9]
    (s.cur = Cur.idle ∧ s.paging = false ∧ s.stale = [] ∧ s.coproc = [] ∧ WellFormed s.ctx .stc = true ∧ encode .stc = [0xF9] ∧
      s.segs.cs.cache.inLimit (s.eip.toNat + 0) 1 = true ∧
      s.populatedAt (s.segs.cs.cache.base + (s.eip + BitVec.ofNat 32 0)).toNat = .ok () ∧
      Memory.get s.mem (s.segs.cs.cache.base + (s.eip + BitVec.ofNat 32 0)).toNat = 0xF9) ∧
    (r.mode ≠ .prot ∧ r.eip.toNat + 0 ≤ 0xFFFF ∧
      r.populatedAt (r.segs.cs.cache.base + (r.eip + BitVec.ofNat 32 0)).toNat = .ok () ∧
      Memory.get r.mem (r.segs.cs.cache.base + (r.eip + BitVec.ofNat 32 0)).toNat = 0xF9) := by decide +kernel

/-- InterruptOnlyWhereAllowed: no request, IF = 0, the inhibit; a request that may be taken. -/
theorem witness_InterruptOnlyWhereAllowed :
    s32.sample.pins.intr = false ∧ flag s32.eflags .fi = false ∧ { s32 with inhibit := true }.inhibit = true ∧
    (let s : State := { withFlags 0x202 s32 with pins := ⟨false, false, true⟩ }
     s.sample.pins.intr = true ∧ flag s.eflags .fi = true ∧ s.inhibit = false ∧ flag s.eflags .tf = false) := by
  decide +kernel

/-- S32 with paging on: 3000h lies at 5000h, 4000h faults on reading and writing, 6000h on writing, 7000h on reading; elsewhere
the identity. -/
def paged : State :=
  { s32 with
    cr0 := 0x80000011
    pages := [⟨0x3000, 0x3FFF, true, true, none, .mapped 0x5000⟩, ⟨0x4000, 0x4FFF, true, true, none, .fault 6⟩,
              ⟨0x6000, 0x6FFF, false, true, some 0, .fault 3⟩, ⟨0x7000, 0x7FFF, true, false, none, .fault 1⟩] }

/-- ExceptionsArePrecise, ErrorCodes: an exception of each kind in protected mode, a page fault from the paging table among
them, one in real mode. -/
theorem witness_ExceptionsArePrecise_ErrorCodes :
    (∃ a, step ({ s16 with regs := { s16.regs with esp := 0xFFFF } }.placeBytes 0 [0x58]) = .fault (.raised .ss none a)) ∧
    (∃ a, step (sys.placeBytes 0 [0x0F, 1, 0xC0]) = .fault (.raised .ud none a)) ∧
    (∃ a, step ((popsSel 0x48).placeBytes 0 [0x1F]) = .fault (.raised .np (some 0x48) a)) ∧
    (∃ a, step ({ s32 with segs := { s32.segs with ss := segOf 0x10 { flatData with limit := 0xFFF } } }.placeBytes 0 [0x58])
      = .fault (.raised .ss (some 0) a)) ∧
    (∃ a, step ((popsSel 0).placeBytes 0 [0x17]) = .fault (.raised .gp (some 0) a)) ∧
    (∃ a, step ((popsSel 0x50).placeBytes 0 [0x1F]) = .fault (.raised .pf (some 4) a)) ∧
    (∃ a, step ({ s32 with cr0 := 0x19 }.placeBytes 0 [0x9B]) = .fault (.raised .nm none a)) ∧
    (∃ a, step ({ s32 with pins := ⟨false, true, false⟩ }.placeBytes 0 [0x9B]) = .fault (.raised .mf none a)) ∧
    (∃ a, step ({ paged with regs := { s32.regs with ebx := 0x3FFD } }.placeBytes 0 [0x29, 0x13])
      = .fault (.raised .pf (some 6) a)) ∧
    s16.mode = .real ∧ s32.mode = .prot := by
  refine ⟨traps_raised (s := { s16 with regs := { s16.regs with esp := 0xFFFF } }) ?_, traps_raised (s := sys) ?_,
    traps_raised (s := s32) ?_, traps_raised (s := s32) ?_, traps_raised (s := s32) ?_, traps_raised (s := s32) ?_,
    traps_raised (s := s32) ?_, traps_raised (s := s32) ?_,
    traps_raised (s := { paged with regs := { s32.regs with ebx := 0x3FFD } }) ?_, ?_, ?_⟩ <;> decide +kernel

/-- With paging on, the four bytes at `a` fault. -/
def holed (s : State) (a : Dword) : State :=
  { s with cr0 := 0x80000011, pages := [⟨a, a + 3, true, true, none, .fault 2⟩] }

/-- The page fault those bytes raise. -/
def hole (a : Dword) : Stop := .exc .pf (some 2) (some a)

/-- ExceptionsArePrecise: a denied access of each instruction but RET far; the last of the eight items of PUSHAD and POPAD. -/
theorem witness_Denied :
    let m : Mem := .abs32 0x4000
    let s := holed s32 0x4000
    let top := holed s32 0x2000
    let low := holed s32 0x1FFC
    Denied top (.popR .n0) (hole 0x2000) ∧ Denied top (.popRm (.mem m)) (hole 0x2000) ∧
    Denied s (.popRm (.mem m)) (hole 0x4000) ∧ Denied top .popDs (hole 0x2000) ∧
    Denied (holed s32 0x201C) .popad (hole 0x201C) ∧ Denied top .popfd (hole 0x2000) ∧
    Denied s (.pushRm (.mem m)) (hole 0x4000) ∧ Denied low (.pushR .n0) (hole 0x1FFC) ∧
    Denied (holed s32 0x1FE0) .pushad (hole 0x1FE0) ∧ Denied low .pushfd (hole 0x1FFC) ∧
    Denied s (.rolCl true (.mem m)) (hole 0x4000) ∧ Denied s (.shldCl (.mem m) .n0) (hole 0x4000) ∧
    Denied s (.subRRm true .n0 (.mem m)) (hole 0x4000) ∧ Denied s (.xorRmR true (.mem m) .n0) (hole 0x4000) ∧
    Denied s (.testRmR true (.mem m) .n0) (hole 0x4000) ∧ Denied s (.xchgRmR true (.mem m) .n0) (hole 0x4000) ∧
    Denied s (.setne (.mem m)) (hole 0x4000) ∧ Denied (holed s32 0) .scasd (hole 0) ∧ Denied (holed s32 0) .stosd (hole 0) ∧
    Denied s (.sgdt (.mem m)) (hole 0x4000) ∧ Denied s (.sidt (.mem (.abs32 0x3FFE))) (hole 0x4000) ∧
    Denied s (.sldt (.mem m)) (hole 0x4000) ∧
    Denied s (.smsw (.mem m)) (hole 0x4000) ∧ Denied s (.verr (.mem m)) (hole 0x4000) ∧
    Denied { popsSel 0 with regs := { s32.regs with ecx := 0x50 } } (.verw (.reg .n1)) (.exc .pf (some 4) (some 0xABCD)) ∧
    Denied (holed s32 0) .xlatb (hole 0) ∧ Denied top (.retNearImm 4) (hole 0x2000) ∧
    Denied { s32 with populated := [] } (.popR .n0) (.refuse .unpopulated) :=
  ⟨.popReg _ .n0 _ (.inl rfl) (by decide +kernel), .popMem _ _ (by decide +kernel),
    .popMemStore _ 0 _ (by decide +kernel) (by decide +kernel), .popSeg _ .ds _ (by decide) (by decide +kernel),
    .popAll _ .dword 7 _ (by decide) (fun h => absurd h.1 (by decide +kernel)) (by decide)
      (by have h : ∀ k, k < 7 → answers ((holed s32 0x201C).stackRead (Width.dword.bytes * k) .dword) = true := by
            decide +kernel
          exact fun k hk => answers_ok (h k hk))
      (by decide +kernel),
    .popFlags _ .dword _ (by decide) (by decide +kernel) (by decide +kernel),
    .pushOperand (.ofRm (.mem (.abs32 0x4000))) _ (by decide +kernel),
    .pushItem (.ofReg .n0) 0 _ (by decide +kernel) (fun h => absurd h.1 (by decide +kernel)) (by decide +kernel),
    .pushAll _ .dword 7 _ (by decide) (by decide)
      (by have h : ∀ k, k < 7 → answers ((holed s32 0x1FE0).access .ss
              ((holed s32 0x1FE0).spPlus (- BitVec.ofNat 32 (Width.dword.bytes * (k + 1)))).toNat 4 .write) = true := by
            decide +kernel
          exact fun k hk => answers_ok (h k hk))
      (fun h => absurd h.1 (by decide +kernel)) (by decide +kernel),
    .pushFlags _ .dword _ (by decide) (by decide +kernel) (fun h => absurd h.1 (by decide +kernel)) (by decide +kernel),
    .shift .rol .cl true _ _ (by decide +kernel), .double _ (.mem (.abs32 0x4000)) .n0 0 _ (by decide) (by decide +kernel),
    .arithSource _ true (.rRm .n0 (.mem (.abs32 0x4000))) _ (by decide) (by decide +kernel),
    .arithTarget _ true (.rmR (.mem (.abs32 0x4000)) .n0) 0 _ (by decide) (by decide +kernel) (by decide +kernel),
    .test true (.rmR (.mem (.abs32 0x4000)) .n0) _ (by decide +kernel), .xchg true _ _ _ (by decide +kernel),
    .setcc .ne _ _ (by decide +kernel), .scas .dword _ rfl (by decide +kernel), .stos .dword _ rfl (by decide +kernel),
    .tableLimit _ (.abs32 0x4000) _ (by decide) (by decide +kernel),
    .tableBase _ (.abs32 0x3FFE) [0x3FFE, 0x3FFF] _ (by decide) (by decide +kernel) (by decide +kernel),
    .words _ (.mem (.abs32 0x4000)) _ (.inl ⟨by decide +kernel, by decide⟩) (by decide +kernel),
    .words _ (.mem (.abs32 0x4000)) _ (.inr rfl) (by decide +kernel),
    .verify _ (.mem (.abs32 0x4000)) _ (by decide +kernel) (by decide) (by decide +kernel),
    .verifyDescriptor _ (.reg .n1) 0x50 4 0xABCD (by decide +kernel) (by decide) (by decide +kernel) (by decide)
      (by decide +kernel),
    .xlatb _ (by decide +kernel), .retNear _ _ (.inr ⟨4, rfl⟩) (by decide +kernel),
    .popReg _ .n0 _ (.inl rfl) (by decide +kernel)⟩

/-- ExceptionsArePrecise: a denied access of RET far, each in turn: in real mode, to the same and to an outer level. -/
theorem witness_Denied_far :
    let ss : Stop := .exc .ss (some 0) none
    let at16 := fun (sp : Dword) => { s16 with regs := { s16.regs with esp := sp } }
    let upTo := fun (s : State) (n : Dword) => s.setSeg .ss (segOf 0x10 { flatData with limit := n })
    Denied (at16 0xFFFF) .retFar ss ∧ Denied (at16 0xFFFD) .retFar ss ∧
    Denied (upTo (v51c flatCode) 0x2004) .retFar ss ∧ Denied (upTo (v51c flatCode) 0x2005) .retFar ss ∧
    Denied (holed (v51c flatCode) 0x2000) .retFar (hole 0x2000) ∧ Denied (upTo (v51k 0x23) 0x200E) .retFar ss ∧
    Denied (holed (v51k 0x23) 0x200C) .retFar (hole 0x200C) ∧ Denied (holed (v51k 0x23) 0x2008) .retFar (hole 0x2008) ∧
    Denied (holed (v51k 0x23) 0x2000) .retFar (hole 0x2000) :=
  have far : isFarRet .retFar 0 := .inl ⟨rfl, rfl⟩
  ⟨.retFarOffset _ 0 _ far (by decide +kernel) (by decide +kernel),
    .retFarSelector _ 0 0 _ far (by decide +kernel) (by decide +kernel) (by decide +kernel),
    .retFarLimit _ 0 far (by decide +kernel) (by decide +kernel),
    .retFarImage _ 0 _ far (by decide +kernel) (by decide +kernel) (by decide +kernel),
    .retSame _ 0 8 flatCode _ far ⟨by decide +kernel, by decide +kernel, by decide +kernel⟩ (by decide +kernel) (by decide)
      (by decide +kernel) (by decide) (by decide) (by decide +kernel) (by decide +kernel),
    .retOuterLimit _ 0 0x1B far ⟨by decide +kernel, by decide +kernel, by decide +kernel⟩ (by decide +kernel)
      (by decide +kernel),
    .retOuterSs _ 0 0x1B _ far ⟨⟨by decide +kernel, by decide +kernel, by decide +kernel⟩, by decide +kernel, by decide +kernel⟩
      (by decide +kernel),
    .retOuterSp _ 0 0x1B 0x23 _ far
      ⟨⟨by decide +kernel, by decide +kernel, by decide +kernel⟩, by decide +kernel, by decide +kernel⟩ (by decide +kernel)
      (by decide +kernel),
    .retOuterOffset _ 0 0x1B 0x12FFF0 0x23 _ far
      ⟨⟨by decide +kernel, by decide +kernel, by decide +kernel⟩, by decide +kernel, by decide +kernel⟩ (by decide +kernel)
      (by decide +kernel) (by decide +kernel)⟩

/-- R331, R424: the page fault of the limit image comes before the segment fault of the base image, which alone faults where the
limit image passes; at the top of the segment nothing wraps (log 47). -/
theorem test_table_accesses :
    (let s := sys.setSeg .ds (segOf 0x10 { flatData with limit := 0x4003 })
     traps s .pf (some 2) (run [0x0F, 1, 5, 0, 0x40, 0, 0] (holed s 0x4000)) &&
       traps s .gp (some 0) (run [0x0F, 1, 5, 0, 0x40, 0, 0] s)) = true ∧
    [[0x67, 0x0F, 1, 6, 0xFE, 0xFF], [0x0F, 1, 5, 0xFE, 0xFF, 0xFF, 0xFF]].map
      (fun bs => traps sys .gp (some 0) (run bs (sys.setSeg .ds (segOf 0x10 flatData)))) = [false, true] ∧
    traps s16 .gp none (run [0x0F, 1, 6, 0xFE, 0xFF] s16) = true := by decide +kernel

/-- OnlyPushesShutDown: a push of one operand, and PUSHA at its first, third and last item (SP = 1, 5 and 15). -/
theorem witness_OnlyPushesShutDown :
    exec (.pushR .n0) { s16 with regs := { s16.regs with esp := 1 } } = .fault .shutdown ∧
    exec .pusha { s16 with regs := { s16.regs with esp := 1 } } = .fault .shutdown ∧
    exec .pusha { s16 with regs := { s16.regs with esp := 5 } } = .fault .shutdown ∧
    exec .pusha { s16 with regs := { s16.regs with esp := 15 } } = .fault .shutdown ∧
    exec .pushfd { s16 with regs := { s16.regs with esp := 3 } } = .fault .shutdown := by
  refine ⟨shutsDown_shutdown ?_, shutsDown_shutdown ?_, shutsDown_shutdown ?_, shutsDown_shutdown ?_,
    shutsDown_shutdown ?_⟩ <;> decide +kernel

/-- SegmentChecks: each clause: the last byte at FFFFh and beyond it; the conditions 3 to 8, and none of them. -/
theorem witness_SegmentChecks :
    (s16.mode ≠ .prot ∧ s16.segCheck .ds 0xFFFE 2 .read = .ok () ∧ s16.segCheck .ds 0xFFFF 2 .read ≠ .ok ()) ∧
    (s32.mode = .prot ∧ nullSel (0 : Word) = true ∧ (v51k 0x23).segs.fs.selector = 0) ∧
    (let s : State := s32.setSeg .ss (segOf 0x10 { flatData with present := false })
     s.mode = .prot ∧ (s.seg .ss).cache.present = false) ∧
    (let s : State := s32.setSeg .ds (segOf 0x10 { flatData with present := false })
     nullSel (s.seg .ds).selector = false ∧ (s.seg .ds).valid = true ∧ (s.seg .ds).cache.present = false) ∧
    (let s : State := s32.setSeg .ds (segOf 0x10 { flatCode with kind := .code false false })
     (s.seg .ds).cache.present = true ∧ (s.seg .ds).cache.isExecuteOnly = true) ∧
    (let s : State := s32.setSeg .ds (segOf 0x10 { flatData with kind := .data false false })
     (s.seg .ds).cache.isExecuteOnly = false ∧ (s.seg .ds).cache.isWritable = false) ∧
    (let s : State := s32.setSeg .ds (segOf 0x10 { flatData with limit := 0xFFF })
     (s.seg .ds).cache.isWritable = true ∧ (s.seg .ds).cache.inLimit 0xFFD 4 = false ∧
       (s.seg .ds).cache.inLimit 0xFFC 4 = true) := by decide +kernel

/-- AccessAddresses, paging off: four bytes, the last at the top of the segment; operands of each stack-based form, an
override. -/
theorem witness_AccessAddresses :
    s32.paging = false ∧ s32.segCheck .ds 0xFFFFFFFC 4 .write = .ok () ∧
    (∀ j, j < 4 → s32.populatedAt ((s32.seg .ds).cache.base + BitVec.ofNat 32 (0xFFFFFFFC + j)).toNat = .ok ()) ∧
    (∀ w, flatData.kind ≠ .data w true) ∧ s32.cur.seg = none ∧ stackBased (.sib .x2 .n4 .n4 (.d8 0x80)) = true ∧
    { s32 with cur := { Cur.idle with seg := some .fs } }.cur.seg = some .fs ∧
    s32.segCheck .ds 0xFFFFFFFC 4 .rmw = .ok () ∧ s32.coproc = [] ∧ s32.access .ds 0x4000 2 .read = .ok [0x4000, 0x4001] ∧
    s32.accessRmw (s32.memSeg (.abs32 0x4000)) (s32.ea (.abs32 0x4000)).toNat 2 = .ok ([0x4000, 0x4001], [0x4000, 0x4001]) := by
  refine ⟨by decide +kernel, by decide +kernel, by decide +kernel, ?_, by decide +kernel, by decide +kernel, by decide +kernel,
    by decide +kernel, by decide +kernel, by decide +kernel, by decide +kernel⟩
  intro w; cases w <;> decide

/-- A walk in `paged` that answers. -/
theorem paged_ok {lin : Dword} {w : Bool} {p : Nat} (h : paged.pageWalk lin w = .ok p) :
    paged.walksTo lin w p ∧ ∀ c, ¬paged.walkFaults lin w c := by
  have hp : paged.paging = true := by decide +kernel
  refine ⟨(paged.pageWalk_ok_iff lin w p hp).1 h, fun c hc => ?_⟩
  have := (paged.pageWalk_error_iff lin w _ hp).2 ⟨c, hc, rfl⟩
  rw [h] at this; cases this

/-- A walk in `paged` that faults. -/
theorem paged_fault {lin : Dword} {w : Bool} {c : Word} (h : paged.pageWalk lin w = raisePf c lin) :
    paged.walkFaults lin w c := by
  obtain ⟨d, hd, he⟩ := (paged.pageWalk_error_iff lin w _ (by decide +kernel)).1 h
  cases he; exact hd

/-- S32 with paging on: the byte 8000h is read at 9000h and written at A000h. -/
def split : State :=
  { paged with pages := [⟨0x8000, 0x8000, true, false, none, .mapped 0x9000⟩, ⟨0x8000, 0x8000, false, true, none, .mapped 0xA000⟩] }

/-- AccessAddresses, paging on: a byte read and written at two places. -/
theorem witness_AccessAddresses_rmw :
    split.paging = true ∧ split.segCheck .ds 0x8000 1 .rmw = .ok () ∧
    (∀ j, j < 1 → split.walksTo (split.linear .ds (0x8000 + j)) true 0xA000 ∧
      split.walksTo (split.linear .ds (0x8000 + j)) false 0x9000 ∧
      split.populatedAt 0xA000 = .ok () ∧ split.populatedAt 0x9000 = .ok ()) ∧
    split.coproc = [] ∧ split.access .ds 0x8000 1 .read = .ok [0x9000] ∧
    split.accessRmw (split.memSeg (.abs32 0x8000)) (split.ea (.abs32 0x8000)).toNat 1 = .ok ([0xA000], [0x9000]) := by
  have hp : split.paging = true := by decide +kernel
  refine ⟨hp, by decide +kernel, fun j hj => ?_, by decide +kernel, by decide +kernel, by decide +kernel⟩
  match j, hj with
  | 0, _ => exact ⟨(split.pageWalk_ok_iff _ _ _ hp).1 (by decide +kernel), (split.pageWalk_ok_iff _ _ _ hp).1 (by decide +kernel),
      by decide +kernel, by decide +kernel⟩

/-- AccessAddresses, paging on: two bytes that are mapped; an access whose third byte is the first to fault; a
read-modify-write that faults on writing, and one that faults only on reading. -/
theorem witness_AccessAddresses_paging :
    paged.paging = true ∧ paged.mode ≠ .real ∧ paged.segCheck .ds 0x3FFE 4 .write = .ok () ∧
    (∀ j, j < 2 → paged.walksTo (paged.linear .ds (0x3FFE + j)) true (0x5FFE + j) ∧ paged.populatedAt (0x5FFE + j) = .ok ()) ∧
    paged.firstFault .ds 0x3FFE true 2 6 ∧
    (paged.segCheck .ds 0x6FFF 4 .rmw = .ok () ∧ paged.firstFault .ds 0x6FFF true 0 3) ∧
    (paged.segCheck .ds 0x7000 1 .rmw = .ok () ∧ (∀ i, i < 1 → ∀ d, ¬paged.walkFaults (paged.linear .ds (0x7000 + i)) true d) ∧
      paged.firstFault .ds 0x7000 false 0 1) := by
  refine ⟨by decide +kernel, by decide +kernel, by decide +kernel, ?_, ⟨paged_fault (by decide +kernel), ?_⟩,
    ⟨by decide +kernel, paged_fault (by decide +kernel), fun i hi => absurd hi (Nat.not_lt_zero i)⟩, by decide +kernel, ?_,
    paged_fault (by decide +kernel), fun i hi => absurd hi (Nat.not_lt_zero i)⟩
  · intro j hj
    match j, hj with
    | 0, _ => exact ⟨(paged_ok (by decide +kernel)).1, by decide +kernel⟩
    | 1, _ => exact ⟨(paged_ok (by decide +kernel)).1, by decide +kernel⟩
  · intro i hi
    match i, hi with
    | 0, _ => exact (paged_ok (p := 0x5FFE) (by decide +kernel)).2
    | 1, _ => exact (paged_ok (p := 0x5FFF) (by decide +kernel)).2
  · intro i hi
    match i, hi with
    | 0, _ => exact (paged_ok (p := 0x7000) (by decide +kernel)).2

/-- StoreThenLoad. -/
theorem witness_StoreThenLoad :
    Memory.wf s32.mem = true ∧ s32.paging = false ∧ s32.coproc = [] ∧
    ∃ t, s32.memWrite .ds 0x3000 .dword 0x12345678 = .ok t ∧ t.segCheck .ds (0x3000 + 3) 1 .read = .ok () := by
  refine ⟨rfl, by decide +kernel, rfl, s32.pokes [0x3000, 0x3001, 0x3002, 0x3003] (valueBytes .dword 0x12345678), ?_, ?_⟩
  · exact (State.memWrite_ok _ _ _ _ _ _).2 ⟨_, by decide +kernel, rfl⟩
  · decide +kernel

/-- RegisterWidths: a high byte, a low byte, a word; both stack sizes. -/
theorem witness_RegisterWidths :
    byteHigh .n4 = true ∧ byteHigh .n0 = false ∧ (.n3 : RegNum) ≠ byteHome .n4 ∧
    s32.as = (if s32.segs.ss.cache.big then .s32 else .s16) ∧ s32.stackSize = .s32 ∧ s16.stackSize = .s16 := by
  decide +kernel

/-- PushCompletes: a register, and an operand in memory. -/
theorem witness_PushCompletes :
    Memory.wf s32.mem = true ∧ PushForm.item s32 (.ofReg .n4) = .ok 0x2000 ∧
    PushForm.item s32 (.ofRm (.mem (.abs32 0x4000))) = .ok 0 ∧
    s32.access .ss (s32.spPlus (- BitVec.ofNat 32 s32.os.width.bytes)).toNat s32.os.width.bytes .write
      = .ok [0x1FFC, 0x1FFD, 0x1FFE, 0x1FFF] ∧
    [0x1FFC, 0x1FFD, 0x1FFE, 0x1FFF].Nodup := by decide +kernel

/-- PushAllCompletes: PUSHA and PUSHAD. -/
theorem witness_PushAllCompletes :
    (Memory.wf s16.mem = true ∧
      (∀ j, j < 8 → s16.access .ss (s16.spPlus (- BitVec.ofNat 32 (2 * (8 - j)))).toNat 2 .write
        = .ok [0xF0 + 2 * j, 0xF1 + 2 * j]) ∧
      ((List.range 8).flatMap (fun j => [0xF0 + 2 * j, 0xF1 + 2 * j])).Nodup) ∧
    (Memory.wf s32.mem = true ∧
      (∀ j, j < 8 → s32.access .ss (s32.spPlus (- BitVec.ofNat 32 (4 * (8 - j)))).toNat 4 .write
        = .ok ((List.range 4).map (fun k => 0x1FE0 + 4 * j + k))) ∧
      ((List.range 8).flatMap (fun j => (List.range 4).map (fun k => 0x1FE0 + 4 * j + k))).Nodup) := by
  decide +kernel

/-- PushFlagsCompletes: in protected mode, and in V86 mode with IOPL 3. -/
theorem witness_PushFlagsCompletes :
    (Memory.wf s32.mem = true ∧ ¬(s32.mode = .v86 ∧ s32.iopl ≠ 3) ∧
      s32.access .ss (s32.spPlus (- BitVec.ofNat 32 4)).toNat 4 .write = .ok [0x1FFC, 0x1FFD, 0x1FFE, 0x1FFF]) ∧
    ¬((withFlags 0x23002 v86).mode = .v86 ∧ (withFlags 0x23002 v86).iopl ≠ 3) := by decide +kernel

/-- LowStackShutsDown: SP = 1 for words, SP = 1 and 3 for double words; ESP = 10001h. -/
theorem witness_LowStackShutsDown :
    let s := { s16 with regs := { s16.regs with esp := 1 } }
    let d := { s16 with cur := { Cur.idle with os := true }, regs := { s16.regs with esp := 3 } }
    let b := { bigStack 0x10001 with cur := { Cur.idle with as := true } }
    let past := fun (s : State) (w : Width) => 0xFFFF < (s.spPlus (- BitVec.ofNat 32 w.bytes)).toNat + w.bytes - 1
    (s.mode = .real ∧ s.stackSize = .s16 ∧ PushForm.item s (.ofReg .n0) = .ok 0 ∧ s.os.width = .word ∧ past s .word ∧
      past s .dword) ∧
    (d.mode = .real ∧ d.stackSize = .s16 ∧ PushForm.item d (.ofReg .n0) = .ok 0 ∧ d.os.width = .dword ∧ past d .dword ∧
      ¬past d .word) ∧
    (b.mode = .real ∧ b.stackSize = .s32 ∧ PushForm.item b (.ofReg .n0) = .ok 0x1234 ∧ past b b.os.width) := by decide +kernel

/-- PopRegisterCompletes, PopMemoryCompletes: an item that is readable, a destination that is writable. -/
theorem witness_PopRegisterCompletes_PopMemoryCompletes :
    Memory.wf s32.mem = true ∧ s32.stackRead 0 s32.os.width = .ok 0 ∧
    s32.access (s32.memSeg (.abs32 0x4000)) (s32.popEa s32.os.width (.abs32 0x4000)).toNat s32.os.width.bytes .write
      = .ok [0x4000, 0x4001, 0x4002, 0x4003] ∧
    [0x4000, 0x4001, 0x4002, 0x4003].Nodup ∧ espBased (.abs32 0x4000) = false := by decide +kernel

/-- PopSegmentOutsideProtectedMode: real and V86 mode. -/
theorem witness_PopSegmentOutsideProtectedMode :
    s16.mode ≠ .prot ∧ v86.mode ≠ .prot ∧ s16.stackRead 0 s16.os.width = .ok 0 ∧ v86.stackRead 0 v86.os.width = .ok 0 := by
  decide +kernel

/-- PopSegmentInProtectedMode: a null selector (3), a data segment, SS. -/
theorem witness_PopSegmentInProtectedMode :
    (s32.mode = .prot ∧ (popsSel 3).stackRead 0 (popsSel 3).os.width = .ok 0xFFFF0003) ∧
    ((popsSel 0x10).mode = .prot ∧ (popsSel 0x10).stackRead 0 (popsSel 0x10).os.width = .ok 0xFFFF0010 ∧
      (popsSel 0x10).desc 0x10 = some (.found flatData) ∧ flatData.present = true ∧ flatData.isReadable = true ∧
      flatData.isWritable = true ∧ (popsSel 0x10).cpl ≤ flatData.dpl ∧ rpl (0x10 : Word) ≤ flatData.dpl ∧
      rpl (0x10 : Word) = (popsSel 0x10).cpl ∧ flatData.dpl = (popsSel 0x10).cpl) := by decide +kernel

/-- PopSegmentTraps: null into SS, out of the table, a page fault (with an RPL that SS refuses first, and with one it does
not), a wrong level, an absent segment. -/
theorem witness_PopSegmentTraps :
    (popsSel 0).mode = .prot ∧ (popsSel 0).stackRead 0 (popsSel 0).os.width = .ok 0xFFFF0000 ∧
    (popsSel 4).desc 4 = none ∧ (popsSel 4).stackRead 0 (popsSel 4).os.width = .ok 0xFFFF0004 ∧
    (popsSel 0x50).desc 0x50 = some (.pageFault 4 0xABCD) ∧ rpl (0x50 : Word) = (popsSel 0x50).cpl ∧
    (popsSel 0x51).desc 0x51 = some (.pageFault 4 0xABCD) ∧ rpl (0x51 : Word) ≠ (popsSel 0x51).cpl ∧
    (popsSel 0x4B).desc 0x4B = some (.found { flatData with dpl := 3, present := false }) ∧
    rpl (0x4B : Word) ≠ (popsSel 0x4B).cpl ∧ ¬((3 : BitVec 2) < (popsSel 0x4B).cpl ∨ (3 : BitVec 2) < rpl (0x4B : Word)) := by
  decide +kernel

/-- PopAllCompletes: POPA and POPAD over zero memory. -/
theorem witness_PopAllCompletes :
    (s16.mode ≠ .v86 ∧ ∀ j, j < 8 → s16.stackRead (2 * j) .word = .ok 0) ∧
    (s32.mode ≠ .v86 ∧ ∀ j, j < 8 → s32.stackRead (4 * j) .dword = .ok 0) := by decide +kernel

/-- PopFlagsCompletes: at level 0 and at level 3; an image that sets TF. -/
theorem witness_PopFlagsCompletes :
    ¬(s32.mode = .v86 ∧ s32.iopl ≠ 3) ∧ s32.stackRead 0 .dword = .ok 0 ∧
    ¬(user.mode = .v86 ∧ user.iopl ≠ 3) ∧ user.stackRead 0 .word = .ok 0 ∧ ¬user.cpl ≤ user.iopl ∧
    (put s32 0x2000 [0, 1]).stackRead 0 .dword = .ok 0x100 := by decide +kernel

/-- IoplTraps: V86 mode with IOPL 2, level 3 with IOPL 0. -/
theorem witness_IoplTraps :
    (withFlags 0x22002 v86).mode = .v86 ∧ (withFlags 0x22002 v86).iopl ≠ 3 ∧ user.mode = .prot ∧ user.iopl < user.cpl := by
  decide +kernel

/-- RotatesComplete, RotatesThroughCarryComplete, ShiftsComplete, DoubleShiftsComplete, SubtractionsComplete, XorCompletes,
ExchangesComplete: an operand that may be modified, a register and in memory; the counts 0, 1 and 31. -/
theorem witness_modified_operands :
    Memory.wf s32.mem = true ∧ s32.target (opWidth true s32.os) (.reg .n1) = .ok (0, []) ∧
    s32.target (opWidth true s32.os) (.mem (.abs32 0x4000)) = .ok (0, [0x4000, 0x4001, 0x4002, 0x4003]) ∧
    s32.target (opWidth false s32.os) (.mem (.abs32 0x4000)) = .ok (0, [0x4000]) ∧
    s32.target s32.os.width (.mem (.abs32 0x4000)) = .ok (0, [0x4000, 0x4001, 0x4002, 0x4003]) ∧
    [0x4000, 0x4001, 0x4002, 0x4003].Nodup ∧
    Count.value s32 .one = 1 ∧ Count.value s32 .cl = 0 ∧ Count.value s32 (.imm 0xFF) = 31 ∧
    ArithForm.src s32 (opWidth true s32.os) (.rRm .n0 (.mem (.abs32 0x4000))) = .ok 0 ∧
    ArithForm.src s32 (opWidth true s32.os) (.rmR (.reg .n1) .n2) = .ok 0 := by decide +kernel

/-- ExchangesComplete, its clause on the coprocessor: a store pending to the second of four bytes exchanged. -/
theorem witness_ExchangesComplete_coprocessor :
    let s : State := { s32 with coproc := [⟨0x4001, 7, false⟩] }
    s.accessRmw (s.memSeg (.abs32 0x4000)) (s.ea (.abs32 0x4000)).toNat (opWidth true s.os).bytes
        = .ok ([0x4000, 0x4001, 0x4002, 0x4003], [0x4000, 0x4001, 0x4002, 0x4003]) ∧
      (∃ t, exec (.xchgRmR true (.mem (.abs32 0x4000)) .n1) s = .next t) ∧
      s.coproc = [] ++ ⟨0x4001, 7, false⟩ :: [] ∧ [0x4000, 0x4001, 0x4002, 0x4003][1]? = some 0x4001 := by
  refine ⟨by decide +kernel, ?_, rfl, rfl⟩
  obtain ⟨t, h, _⟩ := ok_next (p := fun _ => true)
    (o := exec (.xchgRmR true (.mem (.abs32 0x4000)) .n1) { s32 with coproc := [⟨0x4001, 7, false⟩] }) (by decide +kernel)
  exact ⟨t, h⟩

/-- RetNearCompletes: an offset inside the segment and one outside it, at the boundary. -/
theorem witness_RetNearCompletes :
    (let s := put (s32.setSeg .cs (segOf 8 { flatCode with limit := 0xFFFF })) 0x2000 [0xFF, 0xFF]
     s.stackRead 0 s.os.width = .ok 0xFFFF ∧ s.mode = .prot ∧ s.segs.cs.cache.inLimit 0xFFFF 1 = true) ∧
    (let s := put (s32.setSeg .cs (segOf 8 { flatCode with limit := 0xFFFF })) 0x2000 [0, 0, 1]
     s.stackRead 0 s.os.width = .ok 0x10000 ∧ s.segs.cs.cache.inLimit 0x10000 1 = false) ∧
    s16.stackRead 0 s16.os.width = .ok 0 := by decide +kernel

/-- RetFarOutsideProtectedMode: an offset of 16 bits, and of 32 bits beyond FFFFh. -/
theorem witness_RetFarOutsideProtectedMode :
    (let s := put s16 0x100 [0x10, 0, 0, 2]
     s.mode ≠ .prot ∧ s.stackRead 0 s.os.width = .ok 0x10 ∧ s.stackRead s.os.width.bytes s.os.width = .ok 0x200) ∧
    (let s := put { s16 with cur := { Cur.idle with os := true } } 0x100 [0, 0, 1, 0, 0, 2]
     s.mode ≠ .prot ∧ s.stackRead 0 s.os.width = .ok 0x10000 ∧ s.stackRead s.os.width.bytes s.os.width = .ok 0x200) := by
  decide +kernel

/-- RetSameLevelCompletes. -/
theorem witness_RetSameLevelCompletes :
    let s := v51c flatCode
    s.mode = .prot ∧ s.segs.ss.cache.inLimit (s.spPlus (BitVec.ofNat 32 s.os.width.bytes)).toNat 2 = true ∧
    s.stackRead 0 s.os.width = .ok 0x1234 ∧ s.stackRead s.os.width.bytes s.os.width = .ok 8 ∧ rpl (8 : Word) = s.cpl ∧
    s.desc 8 = some (.found flatCode) ∧ flatCode.isCode = true ∧ flatCode.present = true ∧ flatCode.dpl = s.cpl ∧
    flatCode.inLimit 0x1234 1 = true := by decide +kernel

/-- RetOuterLevelCompletes: ES is kept, FS null, GS cleared, DS the mixed case. -/
theorem witness_RetOuterLevelCompletes :
    let s := v51k 0x23
    s.mode = .prot ∧ s.segs.ss.cache.inLimit (s.spPlus (BitVec.ofNat 32 s.os.width.bytes)).toNat 2 = true ∧
    s.segs.ss.cache.inLimit (s.spPlus 0).toNat (4 * s.os.width.bytes + 0) = true ∧
    s.stackRead 0 s.os.width = .ok 0x400000 ∧ s.stackRead s.os.width.bytes s.os.width = .ok 0x1B ∧
    s.stackRead (2 * s.os.width.bytes + 0) s.os.width = .ok 0x12FFF0 ∧
    s.stackRead (3 * s.os.width.bytes + 0) s.os.width = .ok 0x23 ∧ s.cpl < rpl (0x1B : Word) ∧
    s.desc 0x1B = some (.found { flatCode with dpl := 3 }) ∧ s.desc 0x23 = some (.found { flatData with dpl := 3 }) ∧
    rpl (0x23 : Word) = rpl (0x1B : Word) ∧ s.segs.fs.selector = 0 ∧ s.desc 0x13 = some (.found flatData) ∧
    rpl (0x13 : Word) = 3 := by decide +kernel

/-- The images of a far RET to level 3 from the top of the stack: offset v, stack pointer y, stack selector z. -/
abbrev outer (s : State) (v y z : Nat) : Prop :=
  s.outerFrame 0 (BitVec.ofNat _ 0x1B) ∧ s.stackRead 0 s.os.width = .ok (BitVec.ofNat _ v) ∧
    s.stackRead (2 * s.os.width.bytes + 0) s.os.width = .ok (BitVec.ofNat _ y) ∧
    s.stackRead (3 * s.os.width.bytes + 0) s.os.width = .ok (BitVec.ofNat _ z)

/-- RetInwardTraps: an inner level; the same level, the selector null, outside the table, on a faulting page, of a data
segment, of an absent one; the offset outside. -/
theorem witness_RetInwardTraps :
    (let s := put user 0x2000 [0x34, 0x12, 0, 0, 8, 0, 0, 0]
     s.farFrame 8 ∧ rpl (8 : Word) < s.cpl) ∧
    (put s32 0x2000 [0x34, 0x12, 0, 0, 3]).farFrame 3 ∧
    (let s := { v51c flatCode with descs := [] }
     s.farFrame 8 ∧ rpl (8 : Word) = s.cpl ∧ s.desc 8 = none) ∧
    (let s := { v51c flatCode with descs := [⟨2, .pageFault 4 0xABCD⟩] }
     s.farFrame 8 ∧ s.desc 8 = some (.pageFault 4 0xABCD)) ∧
    ((v51c flatData).farFrame 8 ∧ (v51c flatData).desc 8 = some (.found flatData) ∧ flatData.isCode = false) ∧
    (let d := { flatCode with present := false }
     (v51c d).farFrame 8 ∧ (v51c d).desc 8 = some (.found d) ∧ d.dpl = rpl (8 : Word)) ∧
    (let d := { flatCode with limit := 0x1233 }
     (v51c d).farFrame 8 ∧ (v51c d).stackRead 0 (v51c d).os.width = .ok 0x1234 ∧ d.inLimit 0x1234 1 = false) := by
  refine ⟨?_, ?_, ?_, ?_, ?_, ?_, ?_⟩ <;> decide +kernel

/-- RetInwardTraps, an outer level: the stack selector null, outside the table, on a faulting page, of the wrong RPL, of an
absent segment; the offset outside. -/
theorem witness_RetInwardTraps_outer :
    outer (v51k 0) 0x400000 0x12FFF0 0 ∧
    (outer (v51k 0x33) 0x400000 0x12FFF0 0x33 ∧ (v51k 0x33).desc 0x33 = none) ∧
    (let s := { v51k 0x23 with descs := [⟨6, .found { flatCode with dpl := 3 }⟩, ⟨8, .pageFault 4 0xABCD⟩] }
     outer s 0x400000 0x12FFF0 0x23 ∧ s.desc 0x1B = some (.found { flatCode with dpl := 3 }) ∧
       s.desc 0x23 = some (.pageFault 4 0xABCD)) ∧
    (outer (v51k 0x21) 0x400000 0x12FFF0 0x21 ∧ (v51k 0x21).desc 0x21 = some (.found { flatData with dpl := 3 }) ∧
      rpl (0x21 : Word) ≠ rpl (0x1B : Word)) ∧
    (let e := { flatData with dpl := 3, present := false }
     let s := { v51k 0x23 with descs := [⟨6, .found { flatCode with dpl := 3 }⟩, ⟨8, .found e⟩] }
     outer s 0x400000 0x12FFF0 0x23 ∧ s.desc 0x23 = some (.found e) ∧ rpl (0x23 : Word) = rpl (0x1B : Word)) ∧
    (let d := { flatCode with dpl := 3, limit := 0x3FFFFF }
     let s := { v51k 0x23 with descs := [⟨6, .found d⟩, ⟨8, .found { flatData with dpl := 3 }⟩] }
     outer s 0x400000 0x12FFF0 0x23 ∧ s.desc 0x1B = some (.found d) ∧ d.inLimit 0x400000 1 = false) := by
  refine ⟨?_, ?_, ?_, ?_, ?_, ?_⟩ <;> decide +kernel

/-- SetccCompletes. -/
theorem witness_SetccCompletes :
    Memory.wf s32.mem = true ∧ s32.slot .byte (.mem (.abs32 0x4000)) = .ok [0x4000] ∧ s32.slot .byte (.reg .n5) = .ok [] := by
  decide +kernel

/-- ConditionsCompare: the flags of 5 − 7. -/
theorem witness_ConditionsCompare : subStatus 0x93 (5 : BitVec (Width.bits .byte)) 7 false := by
  unfold subStatus; decide

/-- StiCompletes: real mode, and level 0 with IOPL 0; level 3 with IOPL 0, where it raises. -/
theorem witness_StiCompletes :
    s16.mode = .real ∧ s32.cpl ≤ s32.iopl ∧ user.mode ≠ .real ∧ user.iopl < user.cpl := by decide +kernel

/-- TestCompletes. -/
theorem witness_TestCompletes :
    s32.rmRead (opWidth true s32.os) (TestForm.left (.rmImm (.mem (.abs32 0x4000)) (.i32 7))) = .ok 0 := by decide +kernel

/-- ScasCompletes, StosCompletes. -/
theorem witness_ScasCompletes_StosCompletes :
    s32.cur.rep = none ∧ Memory.wf s32.mem = true ∧ s32.memRead .es s32.strIndex.toNat .word = .ok 0 ∧
    s32.access .es s32.strIndex.toNat 2 .write = .ok [0, 1] ∧ [0, 1].Nodup := by decide +kernel

/-- A string instruction begun with F3h before it. -/
def repeats (s : State) : State := { s with cur := { Cur.idle with rep := some .rep } }

/-- RepeatedStringSteps: the counts 0, 1 and 5, an element outside the segment, and one where no memory is. -/
theorem witness_RepeatedStringSteps :
    ((repeats s32).cur.rep = some .rep ∧ (repeats s32).regs.ecx.toNat = 0) ∧
    ((repeats (v62 0 1 2)).regs.ecx.toNat = 1 ∧ ∃ u, exec (stosInstr .byte) (v62 0 1 2) = .next u) ∧
    ((repeats (v62 0 5 2)).regs.ecx.toNat = 5 ∧ ∃ u, exec (scasInstr .dword) (v62 0 5 2) = .next u) ∧
    (∃ a, exec (stosInstr .dword) ((v62 0 1 2).setSeg .es (segOf 0x10 { flatData with limit := 0x3002 }))
      = .fault (.raised .gp (some 0) a)) ∧
    exec (stosInstr .dword) { v62 0 1 2 with populated := [] } = .refused .unpopulated := by
  refine ⟨by decide +kernel, ⟨by decide +kernel, ?_⟩, ⟨by decide +kernel, ?_⟩, traps_raised (s := v62 0 1 2) (by decide +kernel),
    refuses_refused (by decide +kernel)⟩
  · obtain ⟨u, h, _⟩ := ok_next (p := fun _ => true) (o := exec (stosInstr .byte) (v62 0 1 2)) (by decide +kernel)
    exact ⟨u, h⟩
  · obtain ⟨u, h, _⟩ := ok_next (p := fun _ => true) (o := exec (scasInstr .dword) (v62 0 5 2)) (by decide +kernel)
    exact ⟨u, h⟩

/-- TableStoresComplete, SystemWordStoresComplete. -/
theorem witness_system_stores :
    Memory.wf sys.mem = true ∧
    sys.access (sys.memSeg (.abs32 0x4000)) (sys.ea (.abs32 0x4000)).toNat 2 .write = .ok [0x4000, 0x4001] ∧
    sys.access (sys.memSeg (.abs32 0x4000)) ((sys.ea (.abs32 0x4000)).toNat + 2) 4 .write
      = .ok [0x4002, 0x4003, 0x4004, 0x4005] ∧
    [0x4000, 0x4001, 0x4002, 0x4003, 0x4004, 0x4005].Nodup ∧ sys.mode = .prot ∧
    sys.slot .word (.mem (.abs32 0x4000)) = .ok [0x4000, 0x4001] ∧ sys.slot .word (.reg .n1) = .ok [] := by decide +kernel

/-- InvalidOpcodes. -/
theorem witness_InvalidOpcodes : s16.mode ≠ .prot ∧ v86.mode ≠ .prot ∧ Instr.sldt (.reg .n0) ∈ [Instr.sldt (.reg .n0)] := by
  decide +kernel

/-- SegmentVerifications. -/
theorem witness_SegmentVerifications :
    let s : State := { with4 0 0x10 0 0 with descs := [⟨4, .found flatCode⟩] }
    s.mode = .prot ∧ s.rmRead .word (.reg .n1) = .ok 0x10 ∧ ∀ c lin, s.desc 0x10 ≠ some (.pageFault c lin) := by
  refine ⟨by decide +kernel, by decide +kernel, ?_⟩
  intro c lin
  have : ({ with4 0 0x10 0 0 with descs := [⟨4, .found flatCode⟩] } : State).desc 0x10 = some (.found flatCode) := by
    decide +kernel
  rw [this]; simp

/-- WaitSteps: TS; ERROR; BUSY; none of them, a coprocessor store pending. -/
theorem witness_WaitSteps :
    ({ s32 with cr0 := 0x19 } : State).cr0.getLsbD 3 = true ∧ s32.cr0.getLsbD 3 = false ∧ s32.pins.error = false ∧
    s32.pins.busy = false ∧ Memory.wf s32.mem = true ∧
    (∀ c ∈ ({ s32 with coproc := [⟨0x5000, 7, false⟩] } : State).coproc, c.addr < 2 ^ 32) := by decide +kernel

/-- XlatbCompletes. -/
theorem witness_XlatbCompletes : s32.memRead (s32.cur.seg.getD .ds) 0 .byte = .ok 0 ∧ s32.as = .s32 ∧ s16.as = .s16 := by
  decide +kernel

/-- PrefixesComplete: the two default sizes, with and without 66h and 67h. -/
theorem witness_PrefixesComplete :
    s32.defaultSize = .s32 ∧ s16.defaultSize = .s16 ∧ v86.defaultSize = .s16 ∧ s32.cur.os = false ∧ s32.cur.as = false ∧
    { s32 with cur := { Cur.idle with os := true, as := true } }.os = .s16 ∧
    { s16 with cur := { Cur.idle with os := true, as := true } }.as = .s32 := by decide +kernel

/-- StepKeepsInvariant, ModeAndSystemRegistersStay, PrivilegeOnlyGoesOutward: a state with the invariant that takes a step. -/
theorem witness_StepKeepsInvariant : Inv (s32.placeBytes 0 [0x50]) ∧ ∃ t, step (s32.placeBytes 0 [0x50]) = .next t := by
  refine ⟨⟨by decide +kernel, by unfold reservedOk; decide +kernel, by unfold privilegeOk; decide +kernel, by decide +kernel,
    by decide +kernel⟩, ?_⟩
  obtain ⟨t, h, _⟩ := ok_next (p := fun _ => true) (o := step (s32.placeBytes 0 [0x50])) (by decide +kernel)
  exact ⟨t, h⟩

/-- PrivilegeOnlyGoesOutward, OnlyFlagWritersChangeFlags, WhereEipGoes: an instruction that completes, and what it does not
write. -/
theorem witness_exec_next :
    (∃ t, exec .stc s32 = .next t) ∧ SReg.cs ∉ writtenSegs .stc ∧ 11 ∉ writtenBits .stc ∧ isPfx .stc = false := by
  refine ⟨?_, by decide +kernel, by decide +kernel, rfl⟩
  obtain ⟨t, h, _⟩ := ok_next (p := fun _ => true) (o := exec .stc s32) (by decide +kernel)
  exact ⟨t, h⟩

/-- IoplAndIfNeedPrivilege: POPFD at level 0 changes IOPL and IF. -/
theorem witness_IoplAndIfNeedPrivilege :
    let s := (put s32 0x2000 [0xD7, 0x3A]).placeBytes 0 [0x9D]
    s.mode ≠ .real ∧ ∃ t, step s = .next t ∧ iopl t.eflags ≠ iopl s.eflags ∧ flag t.eflags .fi ≠ flag s.eflags .fi := by
  refine ⟨by decide +kernel, ?_⟩
  obtain ⟨t, h, hp⟩ := ok_next (p := fun t => decide (iopl t.eflags ≠ 0 ∧ flag t.eflags .fi = true))
    (o := step ((put s32 0x2000 [0xD7, 0x3A]).placeBytes 0 [0x9D])) (by decide +kernel)
  simp only [decide_eq_true_eq] at hp
  have h1 : iopl ((put s32 0x2000 [0xD7, 0x3A]).placeBytes 0 [0x9D]).eflags = 0 := by decide +kernel
  have h2 : flag ((put s32 0x2000 [0xD7, 0x3A]).placeBytes 0 [0x9D]).eflags .fi = false := by decide +kernel
  exact ⟨t, h, by rw [h1]; exact hp.1, by rw [h2, hp.2]; decide⟩

end Sys2Proof.Tests
end

section
/-! The family of 10_state: register writes at each width and the stack pointer; the flags an instruction may change; the mode
and the system registers, which no step changes. -/

namespace Sys2Proof.Machine

/-! ## One byte of a 32-bit value (10_state R22, R24) -/

/-- The lowest bit of the byte that `getByte` and `putByte` name. -/
def byteShift (high : Bool) : Nat := if high then 8 else 0

theorem getByte_eq (v : Dword) (high : Bool) : getByte v high = v.extractLsb' (byteShift high) 8 := by
  cases high <;> rfl

/-- A byte replaced: the value with that byte cleared, and the byte moved to its place. -/
theorem putByte_eq (v : Dword) (high : Bool) (b : Byte) :
    putByte v high b =
      (v &&& ~~~ ((BitVec.allOnes 8).setWidth 32 <<< byteShift high)) ||| (b.setWidth 32 <<< byteShift high) := by
  cases high with
  | false => simp [putByte, byteShift]
  | true => rfl

/-- A byte written: its own eight bits, and the others as they were. -/
theorem putByte_bit (v : Dword) (high : Bool) (b : Byte) (i : Nat) :
    (putByte v high b).getLsbD i =
      if byteShift high ≤ i ∧ i < byteShift high + 8 then b.getLsbD (i - byteShift high) else v.getLsbD i := by
  have shift_le : byteShift high ≤ 8 := by cases high <;> decide
  rw [putByte_eq]
  generalize byteShift high = k at shift_le ⊢
  simp only [BitVec.getLsbD_or, BitVec.getLsbD_and, BitVec.getLsbD_not, BitVec.getLsbD_shiftLeft, BitVec.getLsbD_setWidth,
    BitVec.getLsbD_allOnes]
  by_cases inside : k ≤ i ∧ i < k + 8
  · have : i < 32 ∧ ¬ i < k ∧ i - k < 32 ∧ i - k < 8 := by omega
    simp [inside, this]
  · by_cases below : i < k
    · have : i < 32 := by omega
      simp [inside, below, this]
    · have past : 8 ≤ i - k := by omega
      have : ¬ i - k < 8 := by omega
      by_cases hi : i < 32
      · simp [inside, this, hi, BitVec.getLsbD_of_ge b _ past]
      · simp [inside, hi, BitVec.getLsbD_of_ge v i (by omega)]

theorem getByte_putByte (v : Dword) (high : Bool) (b : Byte) : getByte (putByte v high b) high = b := by
  refine BitVec.eq_of_getLsbD_eq fun i hi => ?_
  simp [getByte_eq, putByte_bit, hi]

/-! ## A register written at a width (10_state R21–R24) -/

/-- The 32-bit register that a register name of a width is part of. -/
def regHome (w : Width) (i : RegNum) : RegNum := if w = .byte then byteHome i else i

/-- A low half written reads back. -/
theorem lowWord_low (old v : Dword) : (lowWord old v).extractLsb' 0 16 = v.extractLsb' 0 16 := by
  rw [lowWord_eq, BitVec.extractLsb'_append_eq_right]

/-- A low half written leaves the high half. -/
theorem lowWord_high (old v : Dword) : (lowWord old v).extractLsb' 16 16 = old.extractLsb' 16 16 := by
  rw [lowWord_eq, BitVec.extractLsb'_append_eq_left]

/-- A register reads back what was written at the same width. -/
theorem Regs.read_write_same (g : Regs) (w : Width) (i : RegNum) (v : BitVec w.bits) : (g.write w i v).read w i = v := by
  cases w with
  | byte => simp only [Regs.read, Regs.write, Regs.get_set_same, getByte_putByte]
  | word =>
    simp only [Regs.read, Regs.write, Regs.get_set_same, lowWord_low]
    exact (BitVec.extractLsb'_setWidth_of_le (by decide)).trans BitVec.extractLsb'_eq_self
  | dword => simp only [Regs.read, Regs.write, Regs.get_set_same]

/-- A write at a width touches no 32-bit register but the one it is part of. -/
theorem Regs.get_write_other (g : Regs) (w : Width) (i j : RegNum) (v : BitVec w.bits) (h : j ≠ regHome w i) :
    (g.write w i v).get j = g.get j := by
  cases w <;> exact Regs.get_set_other _ _ _ _ h

/-- A 16-bit write leaves bits 31:16. -/
theorem Regs.get_write_word_high (g : Regs) (i : RegNum) (v : Word) :
    ((g.write .word i v).get i).extractLsb' 16 16 = (g.get i).extractLsb' 16 16 := by
  simp only [Regs.write, Regs.get_set_same, lowWord_high]

/-- A byte write leaves the bits outside its byte. -/
theorem Regs.get_write_byte_bit (g : Regs) (i : RegNum) (v : Byte) (b : Nat)
    (h : if byteHigh i = true then b < 8 ∨ 16 ≤ b else 8 ≤ b) :
    ((g.write .byte i v).get (byteHome i)).getLsbD b = (g.get (byteHome i)).getLsbD b := by
  have outside : ¬ (byteShift (byteHigh i) ≤ b ∧ b < byteShift (byteHigh i) + 8) := by
    cases hi : byteHigh i <;> simp [hi, byteShift] at h ⊢ <;> omega
  simp only [Regs.write, Regs.get_set_same, putByte_bit, if_neg outside]

/-! ## The stack pointer at a width (20_memory R89–R92) -/

/-- Where the address size and the size of SS agree, both are the stack address size. -/
theorem State.stackSize_of_agree (s : State) (h : s.as = sizeOf s.segs.ss.cache.big) : s.stackSize = s.as := by
  unfold State.stackSize
  exact (if_pos h).trans h.symm

theorem State.spPlus_s32 (s : State) (d : Dword) (h : s.stackSize = .s32) : s.spPlus d = s.regs.esp + d := by
  simp only [State.spPlus, h]

/-- SP moves modulo 2^16. -/
theorem State.spPlus_s16 (s : State) (d : Dword) (h : s.stackSize = .s16) :
    s.spPlus d = (s.regs.esp.extractLsb' 0 16 + d.extractLsb' 0 16).setWidth 32 := by
  have low : ∀ x : Dword, x.setWidth 16 = x.extractLsb' 0 16 := fun x => BitVec.setWidth_eq_extractLsb' (by decide)
  simp only [State.spPlus, h, BitVec.setWidth_add _ _ (show 16 ≤ 32 by decide), low]

/-- SP written: the high half of ESP is kept. -/
theorem State.setSp_s16_esp (s : State) (d : Dword) :
    (s.setSp .s16 d).regs.esp = s.regs.esp.extractLsb' 16 16 ++ d.extractLsb' 0 16 := lowWord_eq _ _

/-! ## What every update keeps -/

/-- Every update an instruction is made of keeps the bits of EFLAGS that may not be written. -/
theorem eflags_frame (segs : List SReg) (bits : List Nat) :
    Frame segs bits (fun s t => sameOutside bits s.eflags t.eflags) where
  refl _ := sameOutside_refl _ _
  trans := sameOutside_trans
  advance _ := sameOutside_refl _ _
  stay _ := sameOutside_refl _ _
  jump _ _ := sameOutside_refl _ _
  setReg _ _ _ _ := sameOutside_refl _ _
  pokes s ps bs _ := by rw [s.pokes_eflags]; exact sameOutside_refl _ _
  setSp _ _ _ := sameOutside_refl _ _
  commit s := by rw [s.commitStores_eflags]; exact sameOutside_refl _ _
  exchangeBytes s ps bs _ := by rw [s.exchangeBytes_eflags]; exact sameOutside_refl _ _
  inhibit _ _ := sameOutside_refl _ _
  eflags _ _ h := h
  seg _ _ _ _ := sameOutside_refl _ _
  regs _ _ := sameOutside_refl _ _
  cur _ _ := sameOutside_refl _ _

/-- The system registers (10_state R45–R50). -/
structure SystemRegs where
  cr0 : Dword
  cr2 : Dword
  gdtr : TableReg
  idtr : TableReg
  ldtr : LdtReg
  tr : Word

/-- The system registers of a state. -/
def State.systemRegs (s : State) : SystemRegs :=
  { cr0 := s.cr0, cr2 := s.cr2, gdtr := s.gdtr, idtr := s.idtr, ldtr := s.ldtr, tr := s.tr }

/-- No update an instruction is made of writes a system register. -/
theorem systemRegs_frame (segs : List SReg) (bits : List Nat) :
    Frame segs bits (fun s t => t.systemRegs = s.systemRegs) where
  refl _ := rfl
  trans h1 h2 := h2.trans h1
  advance _ := rfl
  stay _ := rfl
  jump _ _ := rfl
  setReg _ _ _ _ := rfl
  pokes _ _ _ _ := by simp [State.systemRegs]
  setSp _ _ _ := rfl
  commit _ := by simp [State.systemRegs]
  exchangeBytes _ _ _ _ := by simp [State.systemRegs]
  inhibit _ _ := rfl
  eflags _ _ _ := rfl
  seg _ _ _ _ := rfl
  regs _ _ := rfl
  cur _ _ := rfl

/-! ## What a step keeps -/

/-- A step changes no bit of EFLAGS but those POPF may write. -/
theorem step_eflags (s t : State) (h : step s = .next t) : sameOutside popfBits s.eflags t.eflags :=
  (eflags_frame _ _).step (fun s => by rw [s.sample_eflags]; exact sameOutside_refl _ _)
    (fun _ _ => sameOutside_refl _ _) s t h

/-- A step changes no system register. -/
theorem step_systemRegs (s t : State) (h : step s = .next t) : t.systemRegs = s.systemRegs :=
  (systemRegs_frame _ _).step (fun _ => by simp [State.systemRegs]) (fun _ _ => rfl) s t h

/-- A step changes no flag that POPF may not write. -/
theorem step_flag (s t : State) (x : Flag) (hx : x.pos ∉ popfBits) (h : step s = .next t) :
    flag t.eflags x = flag s.eflags x := step_eflags s t h _ hx

/-- The mode depends on CR0 and VM alone (10_state R44). -/
theorem State.mode_congr {s t : State} (hcr0 : t.cr0 = s.cr0) (hvm : flag t.eflags .vm = flag s.eflags .vm) :
    t.mode = s.mode := by
  unfold State.mode; rw [hcr0, hvm]

/-- The mode as R44 spells it, the case PE = 0 first. -/
theorem State.mode_eq (s : State) :
    s.mode = if s.cr0.getLsbD 0 = false then .real else if flag s.eflags .vm = true then .v86 else .prot := by
  unfold State.mode
  cases s.cr0.getLsbD 0 <;> rfl

/-! ## The statements of the family -/

/-- Settles O13: the byte, word and double word writes case by case; then the two stack address sizes. -/
theorem registerWidths : Obligations.RegisterWidths := by
  unfold Obligations.RegisterWidths
  refine ⟨fun g w i v => ⟨g.read_write_same w i v, fun j => g.get_write_other w i j v, ?_, ?_⟩,
    fun s d => ⟨s.stackSize_of_agree, fun h => ⟨s.spPlus_s32 d h, rfl⟩, fun h => ⟨s.spPlus_s16 d h, s.setSp_s16_esp d⟩⟩⟩
  · rintro rfl; exact g.get_write_word_high i v
  · rintro rfl; exact g.get_write_byte_bit i v

/-- Settles O56: the system registers, RF and VM are kept by every update a step is made of, and the mode depends on CR0 and VM
alone. -/
theorem modeAndSystemRegistersStay : Obligations.ModeAndSystemRegistersStay := by
  unfold Obligations.ModeAndSystemRegistersStay
  refine ⟨State.mode_eq, fun s t h => ?_⟩
  have hrf : flag t.eflags .rf = flag s.eflags .rf := step_flag s t .rf (by decide) h
  have hvm : flag t.eflags .vm = flag s.eflags .vm := step_flag s t .vm (by decide) h
  obtain ⟨hcr0, hcr2, hgdtr, hidtr, hldtr, htr⟩ := SystemRegs.mk.inj (step_systemRegs s t h)
  exact ⟨State.mode_congr hcr0 hvm, hcr0, hcr2, hgdtr, hidtr, hldtr, htr, hrf, hvm⟩

/-- Settles O58: the frame of EFLAGS, at the bits the instruction itself may write. -/
theorem onlyFlagWritersChangeFlags : Obligations.OnlyFlagWritersChangeFlags := by
  unfold Obligations.OnlyFlagWritersChangeFlags
  intro s t i h
  exact (eflags_frame (writtenSegs i) (writtenBits i)).exec s t i (List.Subset.refl _) (List.Subset.refl _) h

end Sys2Proof.Machine
end

section
/-! The family of 40_stack: a push of one item, where it may be stored; the forms of PUSH as that push. -/

namespace Sys2Proof.Machine

/-! ## An item that may be stored (20_memory R75, R90; 40_stack R170) -/

/-- In real mode an access ends at offset FFFFh at the latest (20_memory R75). -/
theorem State.access_real_le (s : State) (seg : SReg) (off n : Nat) (k : Access) (ps : List Nat) (hreal : s.mode = .real)
    (h : s.access seg off n k = .ok ps) : off + n ≤ 0x10000 := by
  simp only [State.access, Res.bind_ok] at h
  obtain ⟨_, hcheck, _⟩ := h
  by_contra past
  simp [State.segCheck, hreal, Nat.lt_of_not_le past] at hcheck

/-- Where the item below the pointer may be stored, the push is no low stack: the access refuses what would end in Shutdown. -/
theorem State.lowStack_of_access (s : State) (top : Dword) (n : Nat) (ps : List Nat)
    (h : s.access .ss top.toNat n .write = .ok ps) : s.lowStack top n = false := by
  by_cases hreal : s.mode = .real
  · have := s.access_real_le _ _ _ _ _ hreal h
    simp [State.lowStack, this]
  · simp [State.lowStack, hreal]

/-! ## The state after a push of one item (R90) -/

/-- The stack pointer below an item of width `w`. -/
abbrev State.pushTop (s : State) (w : Width) : Dword := s.spPlus (- BitVec.ofNat 32 w.bytes)

/-- What an instruction that pushes `v` to the bytes `ps` leaves. -/
def State.afterPush (s : State) (w : Width) (v : BitVec w.bits) (ps : List Nat) : State :=
  ((s.pokes ps (valueBytes w v)).setSp s.stackSize (s.pushTop w)).advance

/-- A push completes where its item may be stored. -/
theorem pushValue_of_access (s : State) (w : Width) (v : BitVec w.bits) (ps : List Nat)
    (h : s.access .ss (s.pushTop w).toNat w.bytes .write = .ok ps) : pushValue w v s = .ok (s.afterPush w v ps) :=
  Res.bind_ok.2 ⟨_, (s.push_ok _ w v).2 ⟨s.lowStack_of_access _ _ _ h, ps, h, rfl⟩, rfl⟩

section
variable (s : State) (w : Width) (v : BitVec w.bits) (ps : List Nat)

theorem State.afterPush_spBecomes : spBecomes s (s.afterPush w v ps) (s.pushTop w) :=
  setSp_spBecomes s _ _ (s.pokes_regs ps _)

theorem State.afterPush_regsKept : regsKept [.n4] s (s.afterPush w v ps) := fun r hr =>
  (setSp_regsKept _ _ _ r hr).trans (by rw [s.pokes_regs])

@[simp] theorem State.afterPush_mem : (s.afterPush w v ps).mem = (s.pokes ps (valueBytes w v)).mem := rfl

/-- The bytes of the item lie at its addresses, the lowest first. -/
theorem State.afterPush_bytes (hwf : Memory.wf s.mem = true) (hps : ps.Nodup)
    (h : s.access .ss (s.pushTop w).toNat w.bytes .write = .ok ps) :
    ps.map (Memory.get (s.afterPush w v ps).mem) = bytesOf w v := by
  obtain ⟨hlen, hlt⟩ := s.access_ok _ _ _ _ _ h
  rw [State.afterPush_mem, s.pokes_get ps _ hwf hps hlt (by rw [hlen, valueBytes_length]), valueBytes_eq]

theorem State.afterPush_memKept : memKept ps s (s.afterPush w v ps) := fun a ha => s.pokes_get_other ps _ a ha

@[simp] theorem State.afterPush_eflags : (s.afterPush w v ps).eflags = s.eflags := by simp [State.afterPush]

@[simp] theorem State.afterPush_segs : (s.afterPush w v ps).segs = s.segs := by simp [State.afterPush]

theorem State.afterPush_systemKept : systemKept s (s.afterPush w v ps) := by simp [systemKept, State.afterPush]

theorem State.afterPush_completed : completed s (s.afterPush w v ps) := by simp [completed, State.afterPush]

end

/-! ## The forms of PUSH (R163–R168) -/

/-- Every form of PUSH reads its item in the state before the pointer moves, and pushes it. -/
theorem exec_push (s : State) (f : PushForm) :
    exec f.instr s = conclude s (f.item s >>= fun v => pushValue s.os.width v s) := by
  cases f with
  | ofSeg r => cases r <;> rfl
  | ofRm _ | ofReg _ | ofImm _ | ofImm8 _ => rfl

/-- A PUSH whose item is read and may be stored completes. -/
theorem exec_push_next (s : State) (f : PushForm) (v : BitVec s.os.width.bits) (ps : List Nat) (hitem : f.item s = .ok v)
    (h : s.access .ss (s.pushTop s.os.width).toNat s.os.width.bytes .write = .ok ps) :
    exec f.instr s = .next (s.afterPush s.os.width v ps) := by
  rw [exec_push, conclude_next]
  exact Res.bind_ok.2 ⟨v, hitem, pushValue_of_access s _ v ps h⟩

/-! ## The statements of the family -/

/-- Settles O14: PUSH completes in the state a push of its item leaves, field by field. -/
theorem pushCompletes : Obligations.PushCompletes := by
  unfold Obligations.PushCompletes
  intro s f v ps hwf hitem haccess hps
  exact ⟨s.afterPush s.os.width v ps, exec_push_next s f v ps hitem haccess, s.afterPush_spBecomes _ v ps,
    s.afterPush_regsKept _ v ps, s.afterPush_bytes _ v ps hwf hps haccess, s.afterPush_memKept _ v ps,
    s.afterPush_eflags _ v ps, s.afterPush_segs _ v ps, s.afterPush_systemKept _ v ps, s.afterPush_completed _ v ps⟩

end Sys2Proof.Machine
end

section
/-! The family of 41_rotate_shift: an r/m operand that may be modified; the one-bit steps repeated, in closed form; the
flags; double shifts. -/

namespace Sys2Proof.Machine

/-! ## An operand that may be modified (20_memory R86) -/

/-- An r/m operand stored: a register, or the bytes at the addresses of a memory operand. -/
def State.storeRm (s : State) (w : Width) : RM → List Nat → BitVec w.bits → State
  | .reg r, _, v => s.setReg w r v
  | .mem _, ws, v => s.pokes ws (valueBytes w v)

/-- A memory operand that may be modified: its read-modify-write access passes, and its old value is the one read there. -/
theorem State.target_mem_ok (s : State) (w : Width) (m : Mem) (a : BitVec w.bits) (ws : List Nat)
    (h : s.target w (.mem m) = .ok (a, ws)) :
    ∃ rs, s.accessRmw (s.memSeg m) (s.ea m).toNat w.bytes = .ok (ws, rs) ∧ s.valueAt w rs = a := by
  simp only [State.target, Res.bind_ok, Res.pure_ok, Prod.mk.injEq] at h
  obtain ⟨⟨ws', rs⟩, haccess, rfl, rfl⟩ := h
  exact ⟨rs, haccess, rfl⟩

/-- Modifying an operand that may be modified: what `f` makes of the old value is stored. -/
theorem State.rmModify_of_target (s : State) (w : Width) (rm : RM) (a : BitVec w.bits) (ws : List Nat)
    (f : BitVec w.bits → BitVec w.bits × State) (h : s.target w rm = .ok (a, ws)) :
    s.rmModify w rm f = .ok ((f a).2.storeRm w rm ws (f a).1) := by
  cases rm with
  | reg r =>
    obtain ⟨rfl, rfl⟩ : s.reg w r = a ∧ [] = ws := by simpa [State.target] using h
    rfl
  | mem m =>
    obtain ⟨rs, haccess, rfl⟩ := s.target_mem_ok w m a ws h
    simp only [State.rmModify, Res.bind_ok]
    exact ⟨_, haccess, rfl⟩

/-- What an instruction leaves that stores `v` in an r/m operand, makes EFLAGS `f` and writes nothing else. -/
def State.afterModify (s : State) (w : Width) (rm : RM) (ws : List Nat) (v : BitVec w.bits) (f : Dword) : State :=
  ((s.setEflags f).storeRm w rm ws v).advance

section
variable (s : State) (w : Width) (rm : RM) (ws : List Nat) (v : BitVec w.bits) (f : Dword)

@[simp] theorem State.afterModify_eflags : (s.afterModify w rm ws v f).eflags = f := by
  cases rm <;> simp [State.afterModify, State.storeRm]

@[simp] theorem State.afterModify_segs : (s.afterModify w rm ws v f).segs = s.segs := by
  cases rm <;> simp [State.afterModify, State.storeRm]

theorem State.afterModify_systemKept : systemKept s (s.afterModify w rm ws v f) := by
  cases rm <;> simp [systemKept, State.afterModify, State.storeRm]

theorem State.afterModify_completed : completed s (s.afterModify w rm ws v f) := by
  cases rm <;> simp [completed, State.afterModify, State.storeRm]

theorem State.afterModify_flagsKept (fs : List Flag) :
    flagsKept fs s (s.afterModify w rm ws v f) ↔ sameOutside (fs.map Flag.pos) s.eflags f := by
  rw [flagsKept, State.afterModify_eflags, sameOutside]

/-- The operand reads as `v`, and nothing beside it has changed. -/
theorem State.afterModify_operandIs (a : BitVec w.bits) (hwf : Memory.wf s.mem = true)
    (htarget : s.target w rm = .ok (a, ws)) (hws : ws.Nodup) : operandIs s (s.afterModify w rm ws v f) w rm ws v := by
  cases rm with
  | reg r => exact ⟨rfl, fun _ _ => rfl⟩
  | mem m =>
    obtain ⟨rs, haccess, _⟩ := s.target_mem_ok w m a ws htarget
    obtain ⟨hlen, _, hlt, _⟩ := s.accessRmw_ok _ _ _ _ _ haccess
    have stored := (s.setEflags f).pokes_get ws (valueBytes w v) hwf hws hlt (by rw [hlen, valueBytes_length])
    exact ⟨State.pokes_regs _ _ _, stored.trans (valueBytes_eq w v), fun b hb => State.pokes_get_other _ ws _ b hb⟩

end

/-! ## Operand widths -/

theorem one_lt_bits (w : Width) : 1 < w.bits := by cases w <;> decide

/-! ## A bit moved in from below or from above -/

section
variable {n : Nat} (x : BitVec n) (b : Bool) (i : Nat)

/-- Moved up by one, with a bit coming in at the bottom. -/
theorem shiftLeft_one_or_bitAs_bit (hi : i < n) :
    ((x <<< 1) ||| bitAs n b).getLsbD i = if i = 0 then b else x.getLsbD (i - 1) := by
  simp only [bitAs, BitVec.getLsbD_or, BitVec.getLsbD_shiftLeft, BitVec.getLsbD_setWidth, BitVec.getLsbD_ofBool]
  by_cases h : i = 0
  · simp [h, show 0 < n by omega]
  · simp [h, hi]

/-- Moved down by one, with a bit coming in at the top. -/
theorem ushiftRight_one_or_topBit_bit (hi : i < n) :
    ((x >>> 1) ||| topBit n b).getLsbD i = if i + 1 = n then b else x.getLsbD (i + 1) := by
  simp only [topBit, bitAs, BitVec.getLsbD_or, BitVec.getLsbD_shiftLeft, BitVec.getLsbD_ushiftRight,
    BitVec.getLsbD_setWidth, BitVec.getLsbD_ofBool]
  by_cases h : i + 1 = n
  · simp [h, show 0 < n by omega, show ¬ i < n - 1 by omega, show i - (n - 1) = 0 by omega, show 1 + i = n by omega, hi]
  · have : i < n - 1 := by omega
    simp [this, h, Nat.add_comm 1 i]

end

/-! ## Rotations bit by bit, and as repetitions of the one by one place -/

section
variable {n : Nat} (x : BitVec n) (c : Nat)

theorem rotateLeft_zero : x.rotateLeft 0 = x := by simp [BitVec.rotateLeft_def, BitVec.ushiftRight_eq_zero]

theorem rotateRight_zero : x.rotateRight 0 = x := by simp [BitVec.rotateRight_def]

/-- A rotation to the right takes each bit from the place `c` higher, around the ring. -/
theorem rotateRight_bit (i : Nat) (hi : i < n) : (x.rotateRight c).getLsbD i = x.getLsbD ((i + c) % n) := by
  have hc : c % n < n := Nat.mod_lt _ (by omega)
  rw [BitVec.getLsbD_rotateRight, ← Nat.add_mod_mod]
  by_cases h : i < n - c % n
  · have : (i + c % n) % n = c % n + i := by rw [Nat.mod_eq_of_lt (by omega)]; omega
    simp [h, this]
  · have : (i + c % n) % n = i - (n - c % n) := by rw [Nat.mod_eq_sub_mod (by omega), Nat.mod_eq_of_lt (by omega)]; omega
    simp [h, this, hi]

/-- A rotation to the left by one: each bit from the place below, the lowest from the top. -/
theorem rotateLeft_one_bit (hn : 1 < n) (i : Nat) (hi : i < n) :
    (x.rotateLeft 1).getLsbD i = if i = 0 then x.msb else x.getLsbD (i - 1) := by
  rw [BitVec.getLsbD_rotateLeft, BitVec.msb_eq_getLsbD_last, Nat.mod_eq_of_lt hn]
  by_cases h : i = 0
  · simp [h]
  · simp [h, hi]

/-- A rotation to the right by one: each bit from the place above, the highest from the bottom. -/
theorem rotateRight_one_bit (i : Nat) (hi : i < n) :
    (x.rotateRight 1).getLsbD i = if i + 1 = n then x.getLsbD 0 else x.getLsbD (i + 1) := by
  rw [rotateRight_bit x 1 i hi]
  by_cases h : i + 1 = n
  · simp [h]
  · simp [h, Nat.mod_eq_of_lt (show i + 1 < n by omega)]

theorem rotateLeft_succ : x.rotateLeft (c + 1) = (x.rotateLeft c).rotateLeft 1 := by
  refine BitVec.eq_of_getMsbD_eq fun i hi => ?_
  have : (1 + i) % n < n := Nat.mod_lt _ (by omega)
  simp [BitVec.getMsbD_rotateLeft, hi, this, Nat.add_assoc]

theorem rotateRight_succ : x.rotateRight (c + 1) = (x.rotateRight c).rotateRight 1 := by
  refine BitVec.eq_of_getLsbD_eq fun i hi => ?_
  have : (i + 1) % n < n := Nat.mod_lt _ (by omega)
  rw [rotateRight_bit _ _ _ hi, rotateRight_bit _ _ _ hi, rotateRight_bit _ _ _ this, Nat.mod_add_mod]
  congr 2; omega

end

/-! ## The one-bit steps, repeated (R190) -/

section
variable {n : Nat} (op : ShiftOp)

/-- The last step of a repetition. -/
theorem ShiftOp.steps_succ (c : Nat) (x : BitVec n) (cf : Bool) :
    op.steps (c + 1) x cf = op.step (op.steps c x cf).1 (op.steps c x cf).2 := by
  induction c generalizing x cf with
  | zero => rfl
  | succ c ih => exact ih _ _

/-- A view of operand and CF on which one step acts as `f 1` shows `f c` after `c` steps. -/
theorem ShiftOp.steps_view {α : Type} (view : BitVec n × Bool → α) (f : Nat → α → α) (zero : ∀ a, f 0 a = a)
    (succ : ∀ c a, f (c + 1) a = f 1 (f c a)) (step : ∀ x cf, view (op.step x cf) = f 1 (view (x, cf)))
    (c : Nat) (x : BitVec n) (cf : Bool) : view (op.steps c x cf) = f c (view (x, cf)) := by
  induction c with
  | zero => exact (zero _).symm
  | succ c ih => rw [ShiftOp.steps_succ, step, succ c, ← ih]

end

/-! ## ROL and ROR (R194, R195) -/

/-- ROL or ROR. -/
abbrev rotateOp (left : Bool) : ShiftOp := if left then .rol else .ror

/-- A word turned by `c` places. -/
abbrev turned {n : Nat} (left : Bool) (c : Nat) (x : BitVec n) : BitVec n := if left then x.rotateLeft c else x.rotateRight c

section
variable {n : Nat} (left : Bool)

theorem turned_zero (x : BitVec n) : turned left 0 x = x := by
  cases left
  · exact rotateRight_zero x
  · exact rotateLeft_zero x

theorem turned_succ (c : Nat) (x : BitVec n) : turned left (c + 1) x = turned left 1 (turned left c x) := by
  cases left
  · exact rotateRight_succ x c
  · exact rotateLeft_succ x c

/-- One step turns the operand by one place. -/
theorem rotate_step_result (hn : 1 < n) (x : BitVec n) (cf : Bool) :
    ((rotateOp left).step x cf).1 = turned left 1 x := by
  refine BitVec.eq_of_getLsbD_eq fun i hi => ?_
  cases left with
  | true => exact (shiftLeft_one_or_bitAs_bit x x.msb i hi).trans (rotateLeft_one_bit x hn i hi).symm
  | false => exact (ushiftRight_one_or_topBit_bit x (x.getLsbD 0) i hi).trans (rotateRight_one_bit x i hi).symm

/-- CF after one step is the bit that came in. -/
theorem rotate_step_carry (hn : 1 < n) (x : BitVec n) (cf : Bool) :
    ((rotateOp left).step x cf).2 =
      if left then ((rotateOp left).step x cf).1.getLsbD 0 else ((rotateOp left).step x cf).1.msb := by
  cases left with
  | true => exact (shiftLeft_one_or_bitAs_bit x x.msb 0 (by omega)).symm
  | false =>
    refine Eq.symm ((BitVec.msb_eq_getLsbD_last _).trans ?_)
    exact (ushiftRight_one_or_topBit_bit x (x.getLsbD 0) (n - 1) (by omega)).trans (if_pos (by omega))

/-- The operand turns by the count. -/
theorem rotate_steps_result (hn : 1 < n) (c : Nat) (x : BitVec n) (cf : Bool) :
    ((rotateOp left).steps c x cf).1 = turned left c x :=
  ShiftOp.steps_view _ Prod.fst (turned left) (turned_zero left) (turned_succ left) (rotate_step_result left hn) c x cf

/-- CF is the last bit moved, kept where none is. -/
theorem rotate_steps_carry (hn : 1 < n) (c : Nat) (x : BitVec n) (cf : Bool) :
    ((rotateOp left).steps c x cf).2 =
      if c = 0 then cf else if left then (turned left c x).getLsbD 0 else (turned left c x).msb := by
  cases c with
  | zero => rfl
  | succ c =>
    rw [if_neg c.succ_ne_zero, ← rotate_steps_result left hn (c + 1) x cf, ShiftOp.steps_succ]
    exact rotate_step_carry left hn _ _

end

/-! ## RCL and RCR (R192, R193) -/

/-- RCL or RCR. -/
abbrev rotateCarryOp (left : Bool) : ShiftOp := if left then .rcl else .rcr

/-- The ring of CF and the operand, CF at the top. -/
abbrev carryRing {n : Nat} (p : BitVec n × Bool) : BitVec (n + 1) := BitVec.cons p.2 p.1

section
variable {n : Nat} (left : Bool)

/-- One step turns the ring by one place. -/
theorem rotateCarry_step (hn : 1 < n) (x : BitVec n) (cf : Bool) :
    carryRing ((rotateCarryOp left).step x cf) = turned left 1 (carryRing (x, cf)) := by
  refine BitVec.eq_of_getLsbD_eq fun i hi => ?_
  rw [BitVec.getLsbD_cons]
  cases left with
  | true =>
    refine Eq.symm ((rotateLeft_one_bit (carryRing (x, cf)) (by omega) i hi).trans ?_)
    rw [BitVec.msb_cons, BitVec.getLsbD_cons, if_neg (show i - 1 ≠ n by omega)]
    by_cases top : i = n
    · rw [if_pos top, top, if_neg (by omega), ← BitVec.msb_eq_getLsbD_last]; rfl
    · exact (if_neg top).symm ▸ (shiftLeft_one_or_bitAs_bit x cf i (by omega)).symm
  | false =>
    refine Eq.symm ((rotateRight_one_bit (carryRing (x, cf)) i hi).trans ?_)
    rw [BitVec.getLsbD_cons, BitVec.getLsbD_cons, if_neg (show 0 ≠ n by omega)]
    by_cases top : i = n
    · rw [if_pos top, top, if_pos rfl]; rfl
    · rw [if_neg top, if_neg (show i + 1 ≠ n + 1 by omega)]
      exact (ushiftRight_one_or_topBit_bit x cf i (by omega)).symm

/-- The ring turns by the count. -/
theorem rotateCarry_steps (hn : 1 < n) (c : Nat) (x : BitVec n) (cf : Bool) :
    carryRing ((rotateCarryOp left).steps c x cf) = turned left c (carryRing (x, cf)) :=
  ShiftOp.steps_view _ carryRing (turned left) (turned_zero left) (turned_succ left) (rotateCarry_step left hn) c x cf

theorem rotateCarry_steps_result (hn : 1 < n) (c : Nat) (x : BitVec n) (cf : Bool) :
    ((rotateCarryOp left).steps c x cf).1 = (turned left c (BitVec.cons cf x)).setWidth n := by
  rw [← rotateCarry_steps left hn c x cf, BitVec.setWidth_cons]

theorem rotateCarry_steps_carry (hn : 1 < n) (c : Nat) (x : BitVec n) (cf : Bool) :
    ((rotateCarryOp left).steps c x cf).2 = (turned left c (BitVec.cons cf x)).msb := by
  rw [← rotateCarry_steps left hn c x cf, BitVec.msb_cons]

end

/-! ## SHL, SHR and SAR (R196–R198) -/

/-- The operand shifted by `c` places: up, down, or down with its sign. -/
abbrev shifted {n : Nat} (op : ShiftOp) (c : Nat) (x : BitVec n) : BitVec n :=
  match op with
  | .shl => x <<< c
  | .shr => x >>> c
  | _ => x.sshiftRight c

section
variable {n : Nat}

/-- One step of SAR shifts with the sign. -/
theorem sar_step_result (x : BitVec n) (cf : Bool) : (ShiftOp.sar.step x cf).1 = x.sshiftRight 1 := by
  refine BitVec.eq_of_getLsbD_eq fun i hi => ?_
  refine (ushiftRight_one_or_topBit_bit x x.msb i hi).trans ?_
  rw [BitVec.getLsbD_sshiftRight]
  by_cases h : i + 1 = n
  · simp [h, show ¬ n ≤ i by omega, show ¬ 1 + i < n by omega]
  · simp [h, Nat.add_comm 1 i, show ¬ n ≤ i by omega, show i + 1 < n by omega]

/-- The operand shifts by the count. -/
theorem shift_steps_result (op : ShiftOp) (hop : op = .shl ∨ op = .shr ∨ op = .sar) (c : Nat) (x : BitVec n)
    (cf : Bool) : (op.steps c x cf).1 = shifted op c x := by
  refine ShiftOp.steps_view op Prod.fst (shifted op) ?_ ?_ ?_ c x cf
  all_goals obtain rfl | rfl | rfl := hop
  · exact BitVec.shiftLeft_zero
  · exact BitVec.ushiftRight_zero
  · exact fun _ => BitVec.sshiftRight_zero
  · exact fun c a => BitVec.shiftLeft_add a c 1
  · exact fun c a => BitVec.shiftRight_add a c 1
  · exact fun c a => BitVec.sshiftRight_add
  · exact fun _ _ => rfl
  · exact fun _ _ => rfl
  · exact sar_step_result

/-- CF after SHL is the last bit shifted out at the top. -/
theorem shl_steps_carry (c : Nat) (x : BitVec n) (cf : Bool) (h1 : 1 ≤ c) (hc : c ≤ n) :
    (ShiftOp.shl.steps c x cf).2 = x.getLsbD (n - c) := by
  obtain ⟨k, rfl⟩ := Nat.exists_eq_add_of_le' h1
  have last : (ShiftOp.shl.steps (k + 1) x cf).2 = (x <<< k).msb := by
    rw [ShiftOp.steps_succ, shift_steps_result .shl (by decide)]; rfl
  rw [last, BitVec.msb_eq_getLsbD_last, BitVec.getLsbD_shiftLeft]
  simp [show n - 1 < n by omega, show ¬ n - 1 < k by omega, show n - 1 - k = n - (k + 1) by omega]

/-- CF after SHR is the last bit shifted out at the bottom. -/
theorem shr_steps_carry (c : Nat) (x : BitVec n) (cf : Bool) (h1 : 1 ≤ c) :
    (ShiftOp.shr.steps c x cf).2 = x.getLsbD (c - 1) := by
  obtain ⟨k, rfl⟩ := Nat.exists_eq_add_of_le' h1
  have last : (ShiftOp.shr.steps (k + 1) x cf).2 = (x >>> k).getLsbD 0 := by
    rw [ShiftOp.steps_succ, shift_steps_result .shr (by decide)]; rfl
  rw [last, BitVec.getLsbD_ushiftRight]; rfl

/-- CF after SAR is the last bit shifted out at the bottom, the sign past the width. -/
theorem sar_steps_carry (hn : 1 < n) (c : Nat) (x : BitVec n) (cf : Bool) (h1 : 1 ≤ c) :
    (ShiftOp.sar.steps c x cf).2 = if c ≤ n then x.getLsbD (c - 1) else x.msb := by
  obtain ⟨k, rfl⟩ := Nat.exists_eq_add_of_le' h1
  have last : (ShiftOp.sar.steps (k + 1) x cf).2 = (x.sshiftRight k).getLsbD 0 := by
    rw [ShiftOp.steps_succ, shift_steps_result .sar (by decide)]; rfl
  rw [last, BitVec.getLsbD_sshiftRight]
  simp [show n ≠ 0 by omega]

end

/-! ## The flags of a rotate or shift (R191) -/

section
variable {n : Nat} (op : ShiftOp) (c d : Nat) (r : BitVec n) (cf : Bool) (f : Dword)

theorem ShiftOp.flags_cf : flag (op.flags c d r cf f) .cf = op.carry n c d cf := by
  unfold ShiftOp.flags
  by_cases h : op.isShift = true ∧ c ≠ 0 <;> simp [h]

theorem ShiftOp.flags_of_one : flag (op.flags 1 d r cf f) .of = op.oneBitOf r cf := by
  unfold ShiftOp.flags
  cases op.isShift <;> simp

/-- CF is the last step's but past the width of SHL and SHR. -/
theorem ShiftOp.carry_eq (h : op = .sar ∨ op.isShift = false ∨ c ≤ n) : op.carry n c d cf = cf := by
  refine if_neg ?_
  rintro ⟨rfl | rfl, past⟩ <;> simp [ShiftOp.isShift, Nat.not_le_of_lt past] at h

/-- With a count of 0 CF is written with its own value, and OF is free. -/
theorem ShiftOp.sameOutside_flags_zero : sameOutside [11] f (op.flags 0 d r (flag f .cf) f) := by
  intro b hb
  have hof : b ≠ Flag.pos .of := by simpa [Flag.pos] using hb
  have hcarry : op.carry n 0 d (flag f .cf) = flag f .cf := op.carry_eq 0 d _ (.inr (.inr n.zero_le))
  simp only [ShiftOp.flags, ne_eq, not_true_eq_false, and_false, if_false, setFlag_bit, if_neg hof, hcarry]
  exact ite_eq_right_iff.2 fun h => h ▸ rfl

end

/-- OF after SHL, SHR or SAR by 1 (R191): the sign changed, the old sign, clear. -/
theorem shift_oneBitOf {n : Nat} (op : ShiftOp) (hop : op = .shl ∨ op = .shr ∨ op = .sar) (hn : 1 < n) (x : BitVec n)
    (cf : Bool) :
    op.oneBitOf (op.steps 1 x cf).1 (op.steps 1 x cf).2 =
      match op with
      | .shl => x.msb != (shifted op 1 x).msb
      | .shr => x.msb
      | _ => false := by
  rw [shift_steps_result op hop]
  obtain rfl | rfl | rfl := hop
  · rfl
  · have : 1 + (n - 2) = n - 1 := by omega
    simp [ShiftOp.oneBitOf, ShiftOp.isLeft, BitVec.msb_ushiftRight, BitVec.msb_eq_getLsbD_last x, this]
  · have : 1 + (n - 2) = n - 1 := by omega
    simp [ShiftOp.oneBitOf, ShiftOp.isLeft, BitVec.msb_sshiftRight, BitVec.getLsbD_sshiftRight,
      BitVec.msb_eq_getLsbD_last x, this, show ¬ n ≤ n - 2 by omega, show n - 1 < n by omega]

/-! ## A rotate or shift runs (R190) -/

/-- The raw count. -/
def Count.raw (s : State) : Count → Byte
  | .one => 1
  | .cl => s.cl
  | .imm n => n

theorem Count.shiftCount_raw (s : State) (k : Count) : shiftCount (k.raw s) = k.value s := by cases k <;> rfl

theorem exec_shiftInstr (s : State) (op : ShiftOp) (k : Count) (w : Bool) (rm : RM) :
    exec (shiftInstr op k w rm) s = conclude s (shiftRm op w rm (k.raw s) s) := by
  cases op <;> cases k <;> rfl

/-- Operand and CF after a rotate or shift by the count `k`. -/
abbrev State.shiftOut (s : State) {n : Nat} (op : ShiftOp) (k : Count) (a : BitVec n) : BitVec n × Bool :=
  op.steps (k.value s) a (flag s.eflags .cf)

/-- EFLAGS after it. -/
abbrev State.shiftFlags (s : State) {n : Nat} (op : ShiftOp) (k : Count) (a : BitVec n) : Dword :=
  op.flags (k.value s) s.draws (s.shiftOut op k a).1 (s.shiftOut op k a).2 s.eflags

/-- A rotate or shift completes where its operand may be modified. -/
theorem exec_shiftInstr_next (s : State) (op : ShiftOp) (k : Count) (w : Bool) (rm : RM)
    (a : BitVec (opWidth w s.os).bits) (ws : List Nat) (h : s.target (opWidth w s.os) rm = .ok (a, ws)) :
    exec (shiftInstr op k w rm) s =
      .next (s.afterModify (opWidth w s.os) rm ws (s.shiftOut op k a).1 (s.shiftFlags op k a)) := by
  rw [exec_shiftInstr, conclude_next, shiftRm, Count.shiftCount_raw]
  exact Res.bind_ok.2 ⟨_, s.rmModify_of_target _ rm a ws _ h, rfl⟩

/-- The flags a rotate or shift may change (R191). -/
def ShiftOp.written (op : ShiftOp) : List Flag := if op.isShift then statusFlags else [.cf, .of]

theorem ShiftOp.sameOutside_flags {n : Nat} (op : ShiftOp) (c d : Nat) (r : BitVec n) (cf : Bool) (f : Dword) :
    sameOutside (op.written.map Flag.pos) f (op.flags c d r cf f) := by
  unfold ShiftOp.written
  cases h : op.isShift
  · exact sameOutside_rotate op c d r cf f h
  · exact sameOutside_mono (by decide) (sameOutside_shift op c d r cf f)

/-- A rotate or shift completes where its operand may be modified: the operand and CF of its repeated steps, OF for a count
of 1, and what it keeps. -/
theorem shiftInstr_completes (s : State) (op : ShiftOp) (k : Count) (w : Bool) (rm : RM)
    (a : BitVec (opWidth w s.os).bits) (ws : List Nat) (hwf : Memory.wf s.mem = true)
    (htarget : s.target (opWidth w s.os) rm = .ok (a, ws)) (hws : ws.Nodup) :
    ∃ t, exec (shiftInstr op k w rm) s = .next t ∧
      operandIs s t (opWidth w s.os) rm ws (s.shiftOut op k a).1 ∧
      flag t.eflags .cf = op.carry (opWidth w s.os).bits (k.value s) s.draws (s.shiftOut op k a).2 ∧
      (k.value s = 1 → flag t.eflags .of = op.oneBitOf (s.shiftOut op k a).1 (s.shiftOut op k a).2) ∧
      (k.value s = 0 → flagsKept [.of] s t) ∧ flagsKept op.written s t ∧
      t.segs = s.segs ∧ systemKept s t ∧ completed s t := by
  refine ⟨_, exec_shiftInstr_next s op k w rm a ws htarget, s.afterModify_operandIs _ rm ws _ _ a hwf htarget hws,
    ?_, ?_, ?_, ?_, s.afterModify_segs _ _ _ _ _, s.afterModify_systemKept _ _ _ _ _, s.afterModify_completed _ _ _ _ _⟩
  · rw [State.afterModify_eflags, ShiftOp.flags_cf]
  · intro one
    rw [State.afterModify_eflags, State.shiftFlags, one, ShiftOp.flags_of_one]
  · intro zero
    rw [State.afterModify_flagsKept, State.shiftFlags, State.shiftOut, zero]
    exact op.sameOutside_flags_zero _ _ _
  · rw [State.afterModify_flagsKept]
    exact op.sameOutside_flags _ _ _ _ _

/-! ## SHLD and SHRD (R199, R200) -/

section
variable {n : Nat} (left : Bool) (c d : Nat) (a b : BitVec n) (f : Dword)

/-- The result of a double shift is cut out of the double word it shifts. -/
theorem doubleResult_eq (hc : c ≤ n) :
    doubleResult left c a b =
      if left then ((a ++ b) <<< c).extractLsb' n n else ((b ++ a) >>> c).extractLsb' 0 n := by
  refine BitVec.eq_of_getLsbD_eq fun i hi => ?_
  cases left with
  | true =>
    simp only [doubleResult, if_true, BitVec.getLsbD_or, BitVec.getLsbD_shiftLeft, BitVec.getLsbD_ushiftRight,
      BitVec.getLsbD_extractLsb', BitVec.getLsbD_append]
    by_cases h : i < c
    · simp [hi, h, show ¬ n + i < c by omega, show n + i - c < n by omega, show n - c + i = n + i - c by omega]
    · simp [hi, h, show ¬ n + i < c by omega, show ¬ n + i - c < n by omega, show n + i - c - n = i - c by omega,
        BitVec.getLsbD_of_ge b (n - c + i) (by omega)]
  | false =>
    simp only [doubleResult, Bool.false_eq_true, if_false, BitVec.getLsbD_or, BitVec.getLsbD_shiftLeft,
      BitVec.getLsbD_ushiftRight, BitVec.getLsbD_extractLsb', BitVec.getLsbD_append, Nat.zero_add]
    by_cases h : c + i < n
    · simp [hi, h, show i < n - c by omega]
    · simp [hi, h, show ¬ i < n - c by omega, show i - (n - c) = c + i - n by omega,
        BitVec.getLsbD_of_ge a (c + i) (by omega)]

/-- Up to the width the operand is the double shift's result. -/
theorem doubleShift_result (hc : c ≤ n) : (doubleShift left c d a b f).1 = doubleResult left c a b := by
  unfold doubleShift
  by_cases h : c = 0
  · cases left <;> simp [h, doubleResult, BitVec.ushiftRight_eq_zero]
  · simp [h, Nat.not_lt_of_le hc]

theorem doubleShift_flags_zero : (doubleShift left 0 d a b f).2 = f := rfl

/-- For a count from 1 to the width the flags are the result's and the last bit shifted out. -/
theorem doubleShift_flags (h1 : 1 ≤ c) (hc : c ≤ n) :
    (doubleShift left c d a b f).2 =
      setStatus f
        { cf := doubleCarry left c a, of := Config.drawBit d .of, sf := (doubleResult left c a b).msb,
          zf := doubleResult left c a b == 0#n, af := Config.drawBit d .af, pf := parityOf (doubleResult left c a b) } := by
  simp [doubleShift, show c ≠ 0 by omega, Nat.not_lt_of_le hc]

end

/-- PF is set where the number of ones among the low eight bits is even (10_state R31). -/
theorem parityOf_iff {n : Nat} (r : BitVec n) : parityOf r = true ↔ onesLow8 r % 2 = 0 := by
  have eight : ∀ p : Nat → Bool,
      (!(p 0 ^^ p 1 ^^ p 2 ^^ p 3 ^^ p 4 ^^ p 5 ^^ p 6 ^^ p 7)) = true ↔ ((List.range 8).filter p).length % 2 = 0 := by
    intro p
    simp only [List.range_succ, List.range_zero, List.nil_append, List.cons_append, List.filter_cons, List.filter_nil]
    generalize p 0 = b0, p 1 = b1, p 2 = b2, p 3 = b3, p 4 = b4, p 5 = b5, p 6 = b6, p 7 = b7
    revert b0 b1 b2 b3 b4 b5 b6 b7
    decide
  refine Iff.trans ?_ (eight r.getLsbD)
  simp [parityOf, evenParity]

/-- SF, ZF and PF written from a result. -/
theorem resultStatus_setStatus {n : Nat} (f : Dword) (t : Status) (r : BitVec n) (hsf : t.sf = r.msb)
    (hzf : t.zf = (r == 0#n)) (hpf : t.pf = parityOf r) : resultStatus (setStatus f t) r := by
  refine ⟨?_, ?_, ?_⟩
  · simp [setStatus, hsf, BitVec.msb_eq_toInt]
  · simp [setStatus, hzf, BitVec.toNat_eq]
  · simp [setStatus, hpf, parityOf_iff]

theorem flag_setStatus_cf (f : Dword) (t : Status) : flag (setStatus f t) .cf = t.cf := by simp [setStatus]

/-- A double shift completes where its operand may be modified. -/
theorem doubleRm_of_target (s : State) (left : Bool) (rm : RM) (g : RegNum) (raw : Byte) (a : BitVec s.os.width.bits)
    (ws : List Nat) (h : s.target s.os.width rm = .ok (a, ws)) :
    doubleRm left rm g raw s =
      .ok (s.afterModify s.os.width rm ws
        (doubleShift left (shiftCount raw) s.draws a (s.reg s.os.width g) s.eflags).1
        (doubleShift left (shiftCount raw) s.draws a (s.reg s.os.width g) s.eflags).2) :=
  Res.bind_ok.2 ⟨_, s.rmModify_of_target _ rm a ws _ h, rfl⟩

/-! ## The statements of the family -/

/-- Settles O26: what every rotate leaves, with the closed forms of ROL and ROR. -/
theorem rotatesComplete : Obligations.RotatesComplete := by
  unfold Obligations.RotatesComplete
  intro s left w k rm a ws hwf htarget hws c r
  have hn := one_lt_bits (opWidth w s.os)
  have hrotate : (rotateOp left).isShift = false := by cases left <;> rfl
  have hr : (s.shiftOut (rotateOp left) k a).1 = r := rotate_steps_result left hn _ _ _
  have hcf : (s.shiftOut (rotateOp left) k a).2 =
      if c = 0 then flag s.eflags .cf else if left then r.getLsbD 0 else r.msb := rotate_steps_carry left hn _ _ _
  obtain ⟨t, hexec, hoperand, hcarry, hone, -, hkept, hrest⟩ :=
    shiftInstr_completes s (rotateOp left) k w rm a ws hwf htarget hws
  rw [ShiftOp.carry_eq _ _ _ _ (.inr (.inl hrotate))] at hcarry
  refine ⟨t, hexec, hr ▸ hoperand, hcarry.trans hcf, fun one => ?_, by cases left <;> exact hkept, hrest⟩
  have moved := hcf.trans (if_neg (show c ≠ 0 by omega))
  rw [hone one, hr, moved]
  cases left <;> rfl

/-- Settles O27: what every rotate leaves, with the ring of RCL and RCR. -/
theorem rotatesThroughCarryComplete : Obligations.RotatesThroughCarryComplete := by
  unfold Obligations.RotatesThroughCarryComplete
  intro s left w k rm a ws hwf htarget hws c ring ring' r
  have hn := one_lt_bits (opWidth w s.os)
  have hrotate : (rotateCarryOp left).isShift = false := by cases left <;> rfl
  have hr : (s.shiftOut (rotateCarryOp left) k a).1 = r := rotateCarry_steps_result left hn _ _ _
  have hcf : (s.shiftOut (rotateCarryOp left) k a).2 = ring'.msb := rotateCarry_steps_carry left hn _ _ _
  obtain ⟨t, hexec, hoperand, hcarry, hone, -, hkept, hrest⟩ :=
    shiftInstr_completes s (rotateCarryOp left) k w rm a ws hwf htarget hws
  rw [ShiftOp.carry_eq _ _ _ _ (.inr (.inl hrotate))] at hcarry
  refine ⟨t, hexec, hr ▸ hoperand, hcarry.trans hcf, fun one => ?_, by cases left <;> exact hkept, hrest⟩
  rw [hone one, hr, hcf]
  cases left <;> rfl

/-- Settles O28: what every shift leaves, with the closed forms of SHL, SHR and SAR. -/
theorem shiftsComplete : Obligations.ShiftsComplete := by
  unfold Obligations.ShiftsComplete
  intro s op w k rm a ws hop hwf htarget hws n c r
  replace hop : op = .shl ∨ op = .shr ∨ op = .sar := by simpa using hop
  have hn := one_lt_bits (opWidth w s.os)
  have hr : (s.shiftOut op k a).1 = r := by
    refine (shift_steps_result op hop _ _ _).trans ?_
    cases op <;> rfl
  obtain ⟨t, hexec, hoperand, hcarry, hone, hzero, hkept, hrest⟩ :=
    shiftInstr_completes s op k w rm a ws hwf htarget hws
  refine ⟨t, hexec, hr ▸ hoperand, fun h1 hc => ?_, ?_, fun (one : k.value s = 1) => ?_, hzero, ?_, hrest⟩
  · rw [hcarry, ShiftOp.carry_eq _ _ _ _ (.inr (.inr hc))]
    obtain rfl | rfl | rfl := hop
    · exact shl_steps_carry _ a _ h1 hc
    · exact shr_steps_carry _ a _ h1
    · exact (sar_steps_carry hn _ a _ h1).trans (if_pos hc)
  · rintro past rfl
    rw [hcarry, ShiftOp.carry_eq _ _ _ _ (.inl rfl)]
    exact (sar_steps_carry hn _ a _ (by omega)).trans (if_neg (Nat.not_le_of_lt past))
  · have hr1 : r = shifted op 1 a := by rw [← hr, State.shiftOut, one, shift_steps_result op hop]
    rw [hone one, State.shiftOut, one, shift_oneBitOf op hop hn, hr1]
    cases op <;> rfl
  · obtain rfl | rfl | rfl := hop <;> exact hkept

/-- Settles O29: up to the width the double shift is the one of the double word; past it the result is the free one. -/
theorem doubleShiftsComplete : Obligations.DoubleShiftsComplete := by
  unfold Obligations.DoubleShiftsComplete
  intro s left count rm g a ws hwf htarget hws i n c b
  have hexec : exec i s = conclude s (doubleRm left rm g (count.getD (s.reg .byte .n1)) s) := by
    cases left <;> cases count <;> rfl
  have hresult : c ≤ n → (doubleShift left c s.draws a b s.eflags).1 = doubleResult left c a b :=
    doubleShift_result left c s.draws a b s.eflags
  refine ⟨_, (doubleShift left c s.draws a b s.eflags).1,
    hexec.trans (congrArg (conclude s) (doubleRm_of_target s left rm g _ a ws htarget)),
    s.afterModify_operandIs _ rm ws _ _ a hwf htarget hws, ?_, ?_, ?_, ?_,
    s.afterModify_segs _ _ _ _ _, s.afterModify_systemKept _ _ _ _ _, s.afterModify_completed _ _ _ _ _⟩
  · exact fun hc => (hresult hc).trans (doubleResult_eq left c a b hc)
  · intro h1 hc
    have hflags : (doubleShift left c s.draws a b s.eflags).2 = _ := doubleShift_flags left c s.draws a b s.eflags h1 hc
    rw [hresult hc, State.afterModify_eflags]
    exact hflags ▸ ⟨flag_setStatus_cf _ _, resultStatus_setStatus _ _ _ rfl rfl rfl⟩
  · intro hzero
    have hflags : (doubleShift left c s.draws a b s.eflags).2 = s.eflags := by
      rw [hzero]; exact doubleShift_flags_zero left s.draws a b s.eflags
    exact (State.afterModify_eflags _ _ _ _ _ _).trans hflags
  · rw [State.afterModify_flagsKept]
    exact sameOutside_mono (by decide) (sameOutside_doubleShift _ _ _ _ _ _)

end Sys2Proof.Machine
end

section
/-! The family of 42_ret: the state a RET leaves; RET near; RET far outside protected mode. -/

namespace Sys2Proof.Machine

/-! ## The return items (R232, R235) -/

/-- `NewIP` keeps the value of an item of operand size. -/
theorem newIp_toNat (os : OSize) (v : BitVec os.width.bits) : (newIp os.width v).toNat = v.toNat := by
  cases os
  · exact BitVec.toNat_setWidth_of_le (by decide)
  · exact BitVec.toNat_setWidth_of_le (by decide)

/-- The selector of a far return is the low half of its item. -/
theorem itemSelector_eq (os : OSize) (x : BitVec os.width.bits) : x.setWidth 16 = x.extractLsb' 0 16 := by
  cases os
  · exact BitVec.setWidth_eq_extractLsb' (by decide)
  · exact BitVec.setWidth_eq_extractLsb' (by decide)

/-- The base of a segment outside protected mode is 16 times its selector (40_stack R155): the shift loses no bit. -/
theorem SegReg.loadedReal_base (old : SegReg) (sel : Word) : (old.loadedReal sel).cache.base.toNat = 16 * sel.toNat := by
  have hlt : sel.toNat < 2 ^ 16 := sel.isLt
  simp only [SegReg.loadedReal, BitVec.toNat_shiftLeft, BitVec.toNat_setWidth, Nat.shiftLeft_eq]
  omega

/-! ## The state a RET leaves (R232) -/

/-- The state after a RET to `target` that releases `b` bytes and leaves `cs` in CS. -/
def State.afterRet (s : State) (b : Nat) (cs : SegReg) (target : Dword) : State :=
  ((s.release b).setSeg .cs cs).jump target

section
variable (s : State) (b : Nat) (cs : SegReg) (target : Dword)

@[simp] theorem State.afterRet_eip : (s.afterRet b cs target).eip = target := rfl
@[simp] theorem State.afterRet_cs : (s.afterRet b cs target).segs.cs = cs := rfl
@[simp] theorem State.afterRet_eflags : (s.afterRet b cs target).eflags = s.eflags := rfl

/-- Where CS is the one before, so are all segment registers. -/
theorem State.afterRet_segs_same : (s.afterRet b s.segs.cs target).segs = s.segs := rfl

theorem State.afterRet_seg_other (q : SReg) (hq : q ≠ .cs) : (s.afterRet b cs target).seg q = s.seg q :=
  s.segs.get_set_other .cs q cs hq

theorem State.afterRet_spBecomes : spBecomes s (s.afterRet b cs target) (s.spPlus (BitVec.ofNat 32 b)) :=
  setSp_spBecomes s s _ rfl

theorem State.afterRet_regsKept : regsKept [.n4] s (s.afterRet b cs target) := setSp_regsKept s _ _

theorem State.afterRet_memKept : memKept [] s (s.afterRet b cs target) := fun _ _ => rfl

theorem State.afterRet_systemKept : systemKept s (s.afterRet b cs target) := by simp [systemKept, State.afterRet]

/-- The interrupt inhibit ends, and the next instruction begins afresh. -/
theorem State.afterRet_ends : (s.afterRet b cs target).inhibit = false ∧ (s.afterRet b cs target).cur = Cur.idle :=
  ⟨rfl, rfl⟩

end

/-! ## A check that raises -/

/-- `#XX(code)` without a linear address leaves the state before the instruction (60_exceptions R400). -/
theorem conclude_raise (s : State) (x : Exc) (code : Word) :
    conclude s (raise x code) = .fault (.raised x (s.reportedCode (some code)) { s with cur := Cur.idle }) := rfl

/-! ## RET near (R233, R234) -/

/-- Both forms of RET near release the item and an immediate. -/
theorem exec_retNear (s : State) (i : Instr) (imm : Nat)
    (hi : i = .retNear ∧ imm = 0 ∨ ∃ m, i = .retNearImm m ∧ imm = m.toNat) :
    exec i s = conclude s (retNearBy imm s) := by
  obtain ⟨rfl, rfl⟩ | ⟨m, rfl, rfl⟩ := hi
  · rfl
  · rfl

section
variable (s : State) (imm : Nat) (v : BitVec s.os.width.bits) (hv : s.stackRead 0 s.os.width = .ok v)
include hv

/-- RET near to an offset inside the code segment; CS is the one before. -/
theorem retNearBy_inside (hin : s.targetInCs (newIp s.os.width v) = true) :
    retNearBy imm s = .ok (s.afterRet (s.os.width.bytes + imm) s.segs.cs (newIp s.os.width v)) :=
  Res.bind_ok.2 ⟨v, hv, Res.bind_ok.2 ⟨(), stopIf_raise.2 (by rw [hin]; rfl), rfl⟩⟩

/-- RET near to an offset outside the code segment. -/
theorem retNearBy_outside (hout : s.targetInCs (newIp s.os.width v) = false) : retNearBy imm s = raise .gp 0 :=
  Res.bind_error.2 (.inr ⟨v, hv, Res.bind_error.2 (.inl (stopIf_error.2 ⟨by rw [hout]; rfl, rfl⟩))⟩)

end

/-! ## RET far in real and V86 mode (R235, R236) -/

/-- Both forms of RET far release their two items and an immediate. -/
theorem exec_retFar (s : State) (i : Instr) (imm : Nat) (hi : isFarRet i imm) :
    exec i s = conclude s (retFarBy imm s) := by
  obtain ⟨rfl, rfl⟩ | ⟨m, rfl, rfl⟩ := hi
  · rfl
  · rfl

/-- Outside protected mode no privilege is checked. -/
theorem retFarBy_real (s : State) (imm : Nat) (hmode : s.mode ≠ .prot) : retFarBy imm s = retFarReal imm s := by
  unfold retFarBy
  split
  · exact absurd ‹s.mode = .prot› hmode
  · rfl

section
variable (s : State) (imm : Nat) (v x : BitVec s.os.width.bits) (hv : s.stackRead 0 s.os.width = .ok v)
  (hx : s.stackRead s.os.width.bytes s.os.width = .ok x)
include hv hx

/-- RET far to an offset of 16 bits: CS is loaded as outside protected mode. -/
theorem retFarReal_inside (hin : v.toNat ≤ 0xFFFF) :
    retFarReal imm s = .ok (s.afterRet (2 * s.os.width.bytes + imm) (s.segs.cs.loadedReal (x.extractLsb' 0 16))
      (newIp s.os.width v)) := by
  have hcheck : decide (0xFFFF < (newIp s.os.width v).toNat) = false := by
    rw [newIp_toNat]; exact decide_eq_false (Nat.not_lt.2 hin)
  rw [← itemSelector_eq]
  exact Res.bind_ok.2 ⟨v, hv, Res.bind_ok.2 ⟨x, hx, Res.bind_ok.2 ⟨(), stopIf_raise.2 hcheck, rfl⟩⟩⟩

/-- RET far to an offset beyond FFFFh. -/
theorem retFarReal_outside (hout : 0xFFFF < v.toNat) : retFarReal imm s = raise .gp 0 := by
  have hcheck : decide (0xFFFF < (newIp s.os.width v).toNat) = true := by
    rw [newIp_toNat]; exact decide_eq_true hout
  exact Res.bind_error.2 (.inr ⟨v, hv, Res.bind_error.2 (.inr ⟨x, hx, Res.bind_error.2 (.inl
    (stopIf_error.2 ⟨hcheck, rfl⟩))⟩)⟩)

end

/-! ## The statements of the family -/

/-- Settles O30: the statement's limit check is the model's, and each outcome is the one of that check. -/
theorem retNearCompletes : Obligations.RetNearCompletes := by
  unfold Obligations.RetNearCompletes
  intro s i imm v hi hv inside
  have hinside : s.targetInCs (newIp s.os.width v) = true ↔ inside := by
    unfold inside State.targetInCs
    rw [newIp_toNat]
    cases s.mode
    case prot => exact Iff.rfl
    case real | v86 => exact decide_eq_true_iff
  rw [exec_retNear s i imm hi, ← hinside]
  constructor
  · intro hin
    refine ⟨_, congrArg (conclude s) (retNearBy_inside s imm v hv hin), ?_, s.afterRet_spBecomes _ _ _,
      s.afterRet_regsKept _ _ _, s.afterRet_eflags _ _ _, s.afterRet_segs_same _ _, s.afterRet_memKept _ _ _,
      s.afterRet_systemKept _ _ _, s.afterRet_ends _ _ _⟩
    rw [State.afterRet_eip, newIp_toNat]
  · intro hout
    rw [retNearBy_outside s imm v hv (Bool.eq_false_iff.2 hout), conclude_raise]

/-- Settles O31: each outcome is the one of the check of FFFFh; the new CS is the one R155 loads. -/
theorem retFarOutsideProtectedMode : Obligations.RetFarOutsideProtectedMode := by
  unfold Obligations.RetFarOutsideProtectedMode
  intro s i imm v x hi hmode hv hx
  rw [exec_retFar s i imm hi, retFarBy_real s imm hmode]
  constructor
  · intro hin
    refine ⟨_, congrArg (conclude s) (retFarReal_inside s imm v x hv hx hin), ?_, ?_, ?_, ?_,
      s.afterRet_seg_other _ _ _, s.afterRet_spBecomes _ _ _, s.afterRet_regsKept _ _ _, s.afterRet_eflags _ _ _,
      s.afterRet_memKept _ _ _, s.afterRet_systemKept _ _ _, s.afterRet_ends _ _ _⟩
    · rw [State.afterRet_eip, newIp_toNat]
    · rw [State.afterRet_cs]; rfl
    · rw [State.afterRet_cs, SegReg.loadedReal_base]
    · rw [State.afterRet_cs]; rfl
  · intro hout
    rw [retFarReal_outside s imm v x hv hx hout, conclude_raise]

end Sys2Proof.Machine
end

section
/-! The family of 43_flag_control: the conditions of SETcc and the comparisons they make after a subtraction; SAHF, STC, STD and
STI as one write of EFLAGS. -/

namespace Sys2Proof.Machine

/-! ## The conditions as formulas of the flags (R262) -/

section
variable (f : Dword)

theorem Cond.be_holds : Cond.be.holds f = true ↔ flag f .cf = true ∨ flag f .zf = true := Bool.or_eq_true_iff

theorem Cond.l_holds : Cond.l.holds f = true ↔ flag f .sf ≠ flag f .of := bne_iff_ne

theorem Cond.le_holds : Cond.le.holds f = true ↔ flag f .zf = true ∨ flag f .sf ≠ flag f .of :=
  Bool.or_eq_true_iff.trans (or_congr_right bne_iff_ne)

theorem Cond.nbe_holds : Cond.nbe.holds f = !Cond.be.holds f := (Bool.not_or _ _).symm

theorem Cond.nl_holds : Cond.nl.holds f = !Cond.l.holds f := (Bool.not_not _).symm

theorem Cond.nle_holds : Cond.nle.holds f = !Cond.le.holds f := by
  calc Cond.nle.holds f
      = (!flag f .zf && Cond.nl.holds f) := rfl
    _ = (!flag f .zf && !Cond.l.holds f) := by rw [Cond.nl_holds]
    _ = !Cond.le.holds f := (Bool.not_or _ _).symm

end

/-! ## The signed comparison after a subtraction (44_arith_logic R281) -/

/-- The exact difference, reduced to `n` bits, is the difference of the words. -/
theorem ofInt_toInt_sub_toInt {n : Nat} (a b : BitVec n) : BitVec.ofInt n (a.toInt - b.toInt) = a - b :=
  BitVec.eq_of_toInt_eq (by rw [BitVec.toInt_ofInt, BitVec.toInt_sub])

/-- The sign of a difference is the sign of the exact difference but where that one overflows. -/
theorem toInt_lt_iff_sign_ne_overflow {n : Nat} (hn : 0 < n) (a b : BitVec n) :
    a.toInt < b.toInt ↔ ¬ ((a - b).toInt < 0 ↔ a.ssubOverflow b = true) := by
  obtain ⟨m, rfl⟩ : ∃ m, n = m + 1 := ⟨n - 1, by omega⟩
  have a_low : -2 ^ m ≤ a.toInt := a.le_toInt
  have a_high : a.toInt < 2 ^ m := a.toInt_lt
  have b_low : -2 ^ m ≤ b.toInt := b.le_toInt
  have b_high : b.toInt < 2 ^ m := b.toInt_lt
  have modulus : ((2 ^ (m + 1) : Nat) : Int) = 2 * 2 ^ m := by push_cast; ring
  rw [BitVec.toInt_sub, Int.bmod_neg_iff (by omega) (by omega), modulus]
  simp only [BitVec.ssubOverflow, Nat.add_sub_cancel, Bool.or_eq_true, decide_eq_true_eq]
  omega

section
variable {n : Nat} {f : Dword} {a b : BitVec n} (h : subStatus f a b false)
include h

theorem subStatus.cf_iff : flag f .cf = true ↔ a.toNat < b.toNat := by
  obtain ⟨hcf, _⟩ := h
  simpa using hcf

theorem subStatus.of_iff : flag f .of = true ↔ a.ssubOverflow b = true := by
  obtain ⟨_, hof, _⟩ := h
  simpa [BitVec.ssubOverflow, or_comm] using hof

theorem subStatus.sf_iff : flag f .sf = true ↔ (a - b).toInt < 0 := by
  obtain ⟨_, _, hsf, _⟩ := h
  simpa [ofInt_toInt_sub_toInt] using hsf

theorem subStatus.zf_iff : flag f .zf = true ↔ a = b := by
  obtain ⟨_, _, _, hzf, _⟩ := h
  simpa [ofInt_toInt_sub_toInt, BitVec.sub_eq_iff_eq_add] using hzf

/-- SF and OF differ exactly where the first operand is less, signed. -/
theorem subStatus.sf_ne_of_iff (hn : 0 < n) : flag f .sf ≠ flag f .of ↔ a.toInt < b.toInt := by
  rw [toInt_lt_iff_sign_ne_overflow hn, ← h.sf_iff, ← h.of_iff, Ne, Bool.eq_iff_iff]

end

/-! ## An instruction that writes EFLAGS and nothing else -/

section
variable (s : State) (f : Dword)

theorem setEflags_advance_memKept : memKept [] s (s.setEflags f).advance := fun _ _ => rfl

theorem setEflags_advance_systemKept : systemKept s (s.setEflags f).advance := by simp [systemKept]

theorem setEflags_advance_completed : completed s (s.setEflags f).advance := ⟨rfl, rfl, rfl⟩

end

/-- One flag written keeps the others. -/
theorem flagsKept_setFlag (s t : State) (x : Flag) (v : Bool) (h : t.eflags = setFlag s.eflags x v) :
    flagsKept [x] s t := by
  unfold flagsKept
  rw [h]
  exact sameOutside_setFlag x v (List.mem_singleton_self _) (sameOutside_refl _ _)

/-! ## SAHF (R260) -/

theorem exec_sahf (s : State) : exec .sahf s = .next (s.setEflags (sahfFlags s.eflags (s.reg .byte .n4))).advance := rfl

/-- AH is the second byte of EAX. -/
theorem ah_bit (s : State) (i : Nat) (hi : i < 8) : (s.reg .byte .n4).getLsbD i = s.regs.eax.getLsbD (8 + i) := by
  have ah : s.reg .byte .n4 = s.regs.eax.extractLsb' 8 8 := rfl
  rw [ah, BitVec.getLsbD_extractLsb', decide_eq_true hi, Bool.true_and]

section
variable (f : Dword) (ah : Byte)

theorem sahfFlags_sf : flag (sahfFlags f ah) .sf = ah.getLsbD 7 := by simp [sahfFlags]
theorem sahfFlags_zf : flag (sahfFlags f ah) .zf = ah.getLsbD 6 := by simp [sahfFlags]
theorem sahfFlags_af : flag (sahfFlags f ah) .af = ah.getLsbD 4 := by simp [sahfFlags]
theorem sahfFlags_pf : flag (sahfFlags f ah) .pf = ah.getLsbD 2 := by simp [sahfFlags]
theorem sahfFlags_cf : flag (sahfFlags f ah) .cf = ah.getLsbD 0 := by simp [sahfFlags]

end

/-! ## STC, STD (R263, R264) -/

/-- STC and STD set their flag. -/
theorem exec_setsFlag (s : State) (i : Instr) (x : Flag) (hi : (i, x) ∈ [(Instr.stc, Flag.cf), (Instr.std, Flag.df)]) :
    exec i s = .next (s.setEflags (setFlag s.eflags x true)).advance := by
  simp only [List.mem_cons, List.not_mem_nil, or_false, Prod.mk.injEq] at hi
  obtain ⟨rfl, rfl⟩ | ⟨rfl, rfl⟩ := hi
  · rfl
  · rfl

/-! ## STI (R265–R267) -/

theorem State.mayEnable_iff (s : State) : s.mayEnable = true ↔ s.mode = .real ∨ s.cpl ≤ s.iopl := by
  simp [State.mayEnable]

/-- The state after STI. -/
def State.afterSti (s : State) : State :=
  { (s.setEflags (setFlag s.eflags .fi true)).advance with inhibit := !flag s.eflags .fi }

theorem State.afterSti_eflags (s : State) : s.afterSti.eflags = setFlag s.eflags .fi true := rfl

/-- The inhibit is armed exactly where IF goes from 0 to 1. -/
theorem State.afterSti_inhibit (s : State) : s.afterSti.inhibit = true ↔ flag s.eflags .fi = false :=
  Iff.of_eq (Bool.not_eq_true' _)

theorem State.afterSti_systemKept (s : State) : systemKept s s.afterSti :=
  setEflags_advance_systemKept s s.afterSti.eflags

theorem exec_sti_allowed (s : State) (h : s.mayEnable = true) : exec .sti s = .next s.afterSti := by
  refine (conclude_next _ _ _).2 (Res.bind_ok.2 ⟨(), stopIf_raise.2 ?_, rfl⟩)
  rw [h]; rfl

theorem enableInterrupts_denied (s : State) (h : s.mayEnable = false) : enableInterrupts s = raise .gp 0 :=
  Res.bind_error.2 (.inl (stopIf_error.2 ⟨by rw [h]; rfl, rfl⟩))

/-- An error code is reported as it is outside real mode (60_exceptions R405). -/
theorem State.reportedCode_of_ne_real (s : State) (code : Option Word) (h : s.mode ≠ .real) :
    s.reportedCode code = code := by
  unfold State.reportedCode
  split
  · exact absurd ‹s.mode = .real› h
  · rfl

theorem exec_sti_denied (s : State) (hmode : s.mode ≠ .real) (h : s.mayEnable = false) :
    exec .sti s = .fault (.raised .gp (some 0) { s with cur := Cur.idle }) := by
  calc exec .sti s
      = conclude s (enableInterrupts s) := rfl
    _ = conclude s (raise .gp 0) := by rw [enableInterrupts_denied s h]
    _ = .fault (.raised .gp (some 0) { s with cur := Cur.idle }) := by
      rw [conclude_raise, s.reportedCode_of_ne_real _ hmode]

/-! ## The statements of the family -/

/-- Settles O37: the formulas and negations of R262; after a subtraction CF, ZF and SF ≠ OF are the comparisons, and the
conditions with equality add ZF to them. -/
theorem conditionsCompare : Obligations.ConditionsCompare := by
  unfold Obligations.ConditionsCompare
  refine ⟨fun f => ⟨Iff.rfl, Iff.rfl, Iff.rfl, Cond.be_holds f, Iff.rfl, Iff.rfl, Cond.l_holds f, Cond.le_holds f⟩,
    fun f => ⟨rfl, rfl, rfl, Cond.nbe_holds f, rfl, rfl, Cond.nl_holds f, Cond.nle_holds f⟩, fun w a b f h => ?_⟩
  have below : flag f .cf = true ↔ a.toNat < b.toNat := h.cf_iff
  have equal : flag f .zf = true ↔ a = b := h.zf_iff
  have less : flag f .sf ≠ flag f .of ↔ a.toInt < b.toInt := h.sf_ne_of_iff (Nat.zero_lt_of_lt (one_lt_bits w))
  refine ⟨below, ?_, equal, (Cond.l_holds f).trans less, ?_⟩
  · rw [Cond.be_holds, below, equal, Nat.le_iff_lt_or_eq, BitVec.toNat_inj]
  · rw [Cond.le_holds, less, equal, Int.le_iff_lt_or_eq, BitVec.toInt_inj, or_comm]

/-- Settles O35: the five flags that SAHF writes, from the bits of AH in EAX, and what a write of EFLAGS keeps. -/
theorem sahfCompletes : Obligations.SahfCompletes := by
  unfold Obligations.SahfCompletes
  intro s
  refine ⟨_, exec_sahf s, ?_, ?_, ?_, ?_, ?_, ?_, rfl, rfl, setEflags_advance_memKept s _,
    setEflags_advance_systemKept s _, setEflags_advance_completed s _⟩
  · exact (sahfFlags_sf _ _).trans (ah_bit s 7 (by decide))
  · exact (sahfFlags_zf _ _).trans (ah_bit s 6 (by decide))
  · exact (sahfFlags_af _ _).trans (ah_bit s 4 (by decide))
  · exact (sahfFlags_pf _ _).trans (ah_bit s 2 (by decide))
  · exact (sahfFlags_cf _ _).trans (ah_bit s 0 (by decide))
  · exact sameOutside_mono (by decide) (sameOutside_sahf _ _)

/-- Settles O38: both set one flag, and a write of EFLAGS keeps the rest. -/
theorem stcStdComplete : Obligations.StcStdComplete := by
  unfold Obligations.StcStdComplete
  intro s i x hi
  refine ⟨_, exec_setsFlag s i x hi, ?_, flagsKept_setFlag s _ x true rfl, rfl, rfl, setEflags_advance_memKept s _,
    setEflags_advance_systemKept s _, setEflags_advance_completed s _⟩
  rw [State.advance_eflags, State.setEflags_eflags, flag_setFlag, if_pos rfl]

/-- Settles O39: each outcome is the one of the check of mode and privilege. -/
theorem stiCompletes : Obligations.StiCompletes := by
  unfold Obligations.StiCompletes
  intro s
  constructor
  · intro allowed
    refine ⟨s.afterSti, exec_sti_allowed s (s.mayEnable_iff.2 allowed), ?_, flagsKept_setFlag s _ .fi true rfl,
      s.afterSti_inhibit, rfl, rfl, rfl, rfl, setEflags_advance_memKept s s.afterSti.eflags, s.afterSti_systemKept⟩
    rw [State.afterSti_eflags, flag_setFlag, if_pos rfl]
  · intro hmode hlevel
    refine exec_sti_denied s hmode (Bool.eq_false_iff.2 fun may => ?_)
    exact (s.mayEnable_iff.1 may).elim hmode (BitVec.not_le.2 hlevel)

end Sys2Proof.Machine
end

section
/-! The family of 44_arith_logic: the four operand forms of SUB, SBB and XOR as one meaning; the flags of a difference and of
a logical result; TEST. -/

namespace Sys2Proof.Machine

/-! ## The four operand forms (R280) -/

/-- What every form of SUB, SBB and XOR does: the destination and the status flags become what `op` makes of the old
destination and the source. -/
def ArithForm.meaning (f : ArithForm) (n : Width) (op : BitVec n.bits → BitVec n.bits → BitVec n.bits × Status)
    (s : State) : Res State := do
  let b ← f.src s n
  let t ← s.rmModify n f.dst fun a => ((op a b).1, s.withStatus (op a b).2)
  return t.advance

/-- The difference less a borrow, with its flags (R281). -/
abbrev subOp (c : Bool) {n : Nat} (a b : BitVec n) : BitVec n × Status := (subResult a b c, subFlags a b c)

/-- The exclusive or, with its flags (R303). -/
abbrev xorOp (draws : Nat) {n : Nat} (a b : BitVec n) : BitVec n × Status := (a ^^^ b, logicFlags draws (a ^^^ b))

/-- SUB takes no borrow in, SBB takes CF (R283, R293). -/
theorem exec_subtraction (s : State) (borrow w : Bool) (f : ArithForm) :
    exec (if borrow then sbbInstr w f else subInstr w f) s =
      conclude s (f.meaning (opWidth w s.os) (subOp (borrow && flag s.eflags .cf)) s) := by
  cases borrow
  · cases f <;> rfl
  · cases f <;> rfl

theorem exec_xor (s : State) (w : Bool) (f : ArithForm) :
    exec (xorInstr w f) s = conclude s (f.meaning (opWidth w s.os) (xorOp s.draws) s) := by
  cases f <;> rfl

section
variable (s : State) (f : ArithForm) (n : Width) (op : BitVec n.bits → BitVec n.bits → BitVec n.bits × Status)
  (a b : BitVec n.bits) (ws : List Nat) (hsrc : f.src s n = .ok b) (htarget : s.target n f.dst = .ok (a, ws))
include hsrc htarget

/-- Where the source is readable and the destination may be modified, the meaning answers. -/
theorem ArithForm.meaning_ok :
    f.meaning n op s = .ok (s.afterModify n f.dst ws (op a b).1 (setStatus s.eflags (op a b).2)) :=
  Res.bind_ok.2 ⟨b, hsrc, Res.bind_ok.2 ⟨_, s.rmModify_of_target n f.dst a ws _ htarget, rfl⟩⟩

/-- Then the destination is the result, the status flags are those of `op`, and nothing else has changed. -/
theorem ArithForm.meaning_completes (hwf : Memory.wf s.mem = true) (hws : ws.Nodup) :
    ∃ t, conclude s (f.meaning n op s) = .next t ∧ operandIs s t n f.dst ws (op a b).1 ∧
      t.eflags = setStatus s.eflags (op a b).2 ∧ flagsKept statusFlags s t ∧
      t.segs = s.segs ∧ systemKept s t ∧ completed s t :=
  ⟨_, congrArg (conclude s) (f.meaning_ok s n op a b ws hsrc htarget),
    s.afterModify_operandIs n f.dst ws _ _ a hwf htarget hws, s.afterModify_eflags _ _ _ _ _,
    (s.afterModify_flagsKept _ _ _ _ _ _).2 (sameOutside_mono (by decide) (sameOutside_setStatus _ _)),
    s.afterModify_segs _ _ _ _ _, s.afterModify_systemKept _ _ _ _ _, s.afterModify_completed _ _ _ _ _⟩

end

/-! ## The status flags of a subtraction (R281) -/

theorem flag_setStatus_af (f : Dword) (t : Status) : flag (setStatus f t) .af = t.af := by simp [setStatus]

theorem flag_setStatus_of (f : Dword) (t : Status) : flag (setStatus f t) .of = t.of := by simp [setStatus]

section
variable {n : Nat} (a b : BitVec n) (c : Bool)

/-- `a − b − c` as a signed integer, not reduced. -/
abbrev exactDiff : Int := a.toInt - b.toInt - c.toNat

/-- The difference is the exact one, reduced to its width. -/
theorem subResult_toInt : (subResult a b c).toInt = (exactDiff a b c).bmod (2 ^ n) := by
  have bit : ((BitVec.ofBool c).setWidth n).toInt = (c.toNat : Int).bmod (2 ^ n) := by
    rw [BitVec.toInt_eq_toNat_bmod, BitVec.toNat_setWidth, BitVec.toNat_ofBool, Int.natCast_emod]
    exact Int.emod_bmod ..
  rw [subResult, BitVec.toInt_sub, BitVec.toInt_sub, bit, Int.bmod_sub_bmod, Int.sub_bmod_bmod]

theorem subResult_eq_ofInt : subResult a b c = BitVec.ofInt n (exactDiff a b c) :=
  BitVec.eq_of_toInt_eq (by rw [subResult_toInt, BitVec.toInt_ofInt])

/-- The signs tell an overflow: the exact difference lies outside the signed range. -/
theorem subFlags_of_iff (hn : 0 < n) :
    (subFlags a b c).of = true ↔ exactDiff a b c < -2 ^ (n - 1) ∨ 2 ^ (n - 1) ≤ exactDiff a b c := by
  obtain ⟨m, rfl⟩ : ∃ m, n = m + 1 := ⟨n - 1, by omega⟩
  have a_low : -2 ^ m ≤ a.toInt := a.le_toInt
  have a_high : a.toInt < 2 ^ m := a.toInt_lt
  have b_low : -2 ^ m ≤ b.toInt := b.le_toInt
  have b_high : b.toInt < 2 ^ m := b.toInt_lt
  have diff_eq : exactDiff a b c = a.toInt - b.toInt - c.toNat := rfl
  have borrow_le : c.toNat ≤ 1 := c.toNat_le
  have modulus : ((2 ^ (m + 1) : Nat) : Int) = 2 * 2 ^ m := by push_cast; ring
  simp only [subFlags, BitVec.msb_eq_toInt, Bool.and_eq_true, bne_iff_ne, ne_eq, decide_eq_decide, Nat.add_sub_cancel]
  rw [subResult_toInt, Int.bmod_neg_iff (by omega) (by omega), modulus]
  omega

/-- The flags written are those of the exact difference. -/
theorem subStatus_setStatus (f : Dword) (hn : 0 < n) : subStatus (setStatus f (subFlags a b c)) a b c := by
  obtain ⟨hsf, hzf, hpf⟩ : resultStatus (setStatus f (subFlags a b c)) (subResult a b c) :=
    resultStatus_setStatus f _ _ rfl rfl rfl
  unfold subStatus
  rw [← exactDiff, ← subResult_eq_ofInt]
  refine ⟨?_, ?_, hsf, hzf.trans (BitVec.toNat_eq (y := 0)).symm, ?_, hpf⟩
  · rw [flag_setStatus_cf]; exact decide_eq_true_iff
  · rw [flag_setStatus_of]; exact subFlags_of_iff a b c hn
  · rw [flag_setStatus_af]; exact decide_eq_true_iff

end

/-! ## The status flags of a logical result (R282) -/

theorem logicStatus_setStatus {n : Nat} (f : Dword) (draws : Nat) (r : BitVec n) :
    logicStatus (setStatus f (logicFlags draws r)) r :=
  ⟨flag_setStatus_cf f _, flag_setStatus_of f _, resultStatus_setStatus f _ r rfl rfl rfl⟩

/-! ## TEST (R288–R290) -/

theorem exec_test (s : State) (w : Bool) (f : TestForm) :
    exec (testInstr w f) s = conclude s (testRm (opWidth w s.os) f.left (f.right s _) s) := by
  cases f <;> rfl

/-- TEST writes EFLAGS and nothing else. -/
theorem testRm_of_read (s : State) (n : Width) (rm : RM) (a b : BitVec n.bits) (h : s.rmRead n rm = .ok a) :
    testRm n rm b s = .ok (s.setEflags (setStatus s.eflags (logicFlags s.draws (a &&& b)))).advance :=
  Res.bind_ok.2 ⟨a, h, rfl⟩

/-! ## The statements of the family -/

/-- Settles O40: what the four forms leave, the difference and its flags being those of the exact difference. -/
theorem subtractionsComplete : Obligations.SubtractionsComplete := by
  unfold Obligations.SubtractionsComplete
  intro s borrow w f a b ws hwf hsrc htarget hws c
  obtain ⟨t, hexec, hoperand, hflags, hrest⟩ :=
    f.meaning_completes s (opWidth w s.os) (subOp c) a b ws hsrc htarget hwf hws
  refine ⟨t, (exec_subtraction s borrow w f).trans hexec, subResult_eq_ofInt a b c ▸ hoperand, ?_, hrest⟩
  rw [hflags]
  exact subStatus_setStatus a b c s.eflags (Nat.zero_lt_of_lt (one_lt_bits _))

/-- Settles O41: what the four forms leave, with the exclusive or and the flags of a logical result. -/
theorem xorCompletes : Obligations.XorCompletes := by
  unfold Obligations.XorCompletes
  intro s w f a b ws hwf hsrc htarget hws
  obtain ⟨t, hexec, hoperand, hflags, hrest⟩ :=
    f.meaning_completes s (opWidth w s.os) (xorOp s.draws) a b ws hsrc htarget hwf hws
  refine ⟨t, a ^^^ b, (exec_xor s w f).trans hexec, fun _ => BitVec.getLsbD_xor, hoperand, ?_, hrest⟩
  rw [hflags]
  exact logicStatus_setStatus s.eflags s.draws (a ^^^ b)

/-- Settles O42: the flags of the bitwise and, and what a write of EFLAGS keeps. -/
theorem testCompletes : Obligations.TestCompletes := by
  unfold Obligations.TestCompletes
  intro s w f a hread
  refine ⟨_, a &&& f.right s _, (exec_test s w f).trans (congrArg (conclude s) (testRm_of_read s _ _ a _ hread)),
    fun _ => BitVec.getLsbD_and, logicStatus_setStatus _ _ _, sameOutside_mono (by decide) (sameOutside_setStatus _ _),
    rfl, rfl, setEflags_advance_memKept s _, setEflags_advance_systemKept s _, setEflags_advance_completed s _⟩

end Sys2Proof.Machine
end

section
/-! The family of 45_string: the index moved at the address size; a string instruction without a repeat prefix as one access
to its element and one move of the index; SCAS and STOS as that. -/

namespace Sys2Proof.Machine

/-! ## The index moved (R310) -/

/-- A register moved at the address size: at 16 bits the low half of the sum is the sum of the low halves. -/
theorem atAddressSize_add (as : OSize) (old d : Dword) : atAddressSize as old (old + d) = movedBy as old d := by
  cases as with
  | s16 =>
    have low_add : (old + d).extractLsb' 0 16 = old.extractLsb' 0 16 + d.extractLsb' 0 16 := by
      simp only [← BitVec.setWidth_eq_extractLsb' (show 16 ≤ 32 by decide), BitVec.setWidth_add _ _ (show 16 ≤ 32 by decide)]
    calc lowWord old (old + d)
        = old.extractLsb' 16 16 ++ (old + d).extractLsb' 0 16 := lowWord_eq _ _
      _ = movedBy .s16 old d := by rw [low_add]; rfl
  | s32 => rfl

/-- The move past the element writes (E)DI and no other register. -/
theorem State.strMove_regs (s : State) (w : Width) :
    (s.strMove w).regs = s.regs.set .n7 (movedBy s.as s.regs.edi (stride s w)) := by
  rw [← atAddressSize_add, stride]
  cases hdf : flag s.eflags .df with
  | false => simp [State.strMove, Regs.set, hdf]
  | true => simp [State.strMove, Regs.set, hdf, BitVec.sub_eq_add_neg]

/-! ## The state between the access and the move -/

/-- What an access to a string element leaves as it was: all but memory and the status flags. -/
structure ElementAccessed (s u : State) : Prop where
  regs : u.regs = s.regs
  segs : u.segs = s.segs
  cur : u.cur = s.cur
  flags : flagsKept statusFlags s u
  system : systemKept s u

theorem elementAccessed_withStatus (s : State) (f : Status) : ElementAccessed s (s.withStatus f) where
  regs := rfl
  segs := rfl
  cur := rfl
  flags := sameOutside_mono (by decide) (sameOutside_setStatus _ _)
  system := by simp [systemKept]

theorem elementAccessed_pokes (s : State) (ps : List Nat) (bs : List Byte) : ElementAccessed s (s.pokes ps bs) where
  regs := s.pokes_regs ps bs
  segs := s.pokes_segs ps bs
  cur := s.pokes_cur ps bs
  flags := fun i _ => by rw [s.pokes_eflags]
  system := by simp [systemKept]

section
variable {s u : State} (h : ElementAccessed s u)
include h

/-- The address size is that before the access (30_encoding R124). -/
theorem ElementAccessed.as_eq : u.as = s.as := by
  obtain ⟨hcr0, _⟩ := h.system
  have hvm : flag u.eflags .vm = flag s.eflags .vm := h.flags _ (by decide)
  unfold State.as State.defaultSize
  rw [State.mode_congr hcr0 hvm, h.segs, h.cur]

/-- So is what the index moves by: DF is no status flag. -/
theorem ElementAccessed.stride_eq (w : Width) : stride u w = stride s w := by
  have hdf : flag u.eflags .df = flag s.eflags .df := h.flags _ (by decide)
  unfold stride
  rw [hdf]

end

/-! ## A string instruction without a repeat prefix -/

/-- What a string instruction leaves that has accessed its element: the index moved, the instruction completed. -/
def State.afterString (u : State) (w : Width) : State := (u.strMove w).advance

@[simp] theorem State.afterString_mem (u : State) (w : Width) : (u.afterString w).mem = u.mem := rfl

section
variable {s u : State} (h : ElementAccessed s u) (w : Width)
include h

theorem ElementAccessed.afterString_regs :
    (u.afterString w).regs = s.regs.set .n7 (movedBy s.as s.regs.edi (stride s w)) := by
  rw [State.afterString, State.advance_regs, State.strMove_regs, h.regs, h.as_eq, h.stride_eq]

theorem ElementAccessed.afterString_edi :
    (u.afterString w).regs.edi = movedBy s.as s.regs.edi (stride s w) := by
  rw [h.afterString_regs]; rfl

theorem ElementAccessed.afterString_regsKept : regsKept [.n7] s (u.afterString w) := by
  intro r hr
  rw [h.afterString_regs]
  exact Regs.get_set_other _ _ _ _ (List.ne_of_not_mem_cons hr)

theorem ElementAccessed.afterString_flagsKept : flagsKept statusFlags s (u.afterString w) := h.flags

theorem ElementAccessed.afterString_segs : (u.afterString w).segs = s.segs := h.segs

theorem ElementAccessed.afterString_systemKept : systemKept s (u.afterString w) := h.system

theorem ElementAccessed.afterString_completed : completed s (u.afterString w) :=
  ⟨congrArg Cur.next h.cur, rfl, rfl⟩

end

/-- Without a repeat prefix a string instruction is done once, and completes. -/
theorem repeated_once (s t : State) (one : State → Res State) (ends : Rep → State → Bool) (hrep : s.cur.rep = none)
    (hone : one s = .ok t) : repeated one ends s = .ok t.advance := by
  unfold repeated
  rw [hrep]
  exact Res.bind_ok.2 ⟨t, hone, rfl⟩

/-! ## SCAS (R311–R313) -/

theorem exec_scas (s : State) (w : Width) : exec (scasInstr w) s = conclude s (repeated (scasOne w) scasEnds s) := by
  cases w <;> rfl

/-- The state after SCAS of the element `b`. -/
abbrev State.afterScas (s : State) (w : Width) (b : BitVec w.bits) : State :=
  (s.withStatus (subFlags (s.reg w accNum) b false)).afterString w

theorem exec_scas_next (s : State) (w : Width) (b : BitVec w.bits) (hrep : s.cur.rep = none)
    (hread : s.memRead .es s.strIndex.toNat w = .ok b) : exec (scasInstr w) s = .next (s.afterScas w b) := by
  rw [exec_scas, conclude_next]
  exact repeated_once s _ _ _ hrep (Res.bind_ok.2 ⟨b, hread, rfl⟩)

/-! ## STOS (R315, R319, R320) -/

theorem exec_stos (s : State) (w : Width) : exec (stosInstr w) s = conclude s (repeated (stosOne w) stosEnds s) := by
  cases w <;> rfl

/-- The state after STOS to the bytes `ps`. -/
abbrev State.afterStos (s : State) (w : Width) (ps : List Nat) : State :=
  (s.pokes ps (valueBytes w (s.reg w accNum))).afterString w

theorem exec_stos_next (s : State) (w : Width) (ps : List Nat) (hrep : s.cur.rep = none)
    (haccess : s.access .es s.strIndex.toNat w.bytes .write = .ok ps) :
    exec (stosInstr w) s = .next (s.afterStos w ps) := by
  have hwrite := (s.memWrite_ok _ .es s.strIndex.toNat w (s.reg w accNum)).2 ⟨ps, haccess, rfl⟩
  rw [exec_stos, conclude_next]
  exact repeated_once s _ _ _ hrep (Res.bind_ok.2 ⟨_, hwrite, rfl⟩)

/-- The element holds the accumulator, the lowest byte first. -/
theorem State.afterStos_bytes (s : State) (w : Width) (ps : List Nat) (hwf : Memory.wf s.mem = true)
    (haccess : s.access .es s.strIndex.toNat w.bytes .write = .ok ps) (hps : ps.Nodup) :
    ps.map (Memory.get (s.afterStos w ps).mem) = bytesOf w (s.reg w .n0) := by
  obtain ⟨hlen, hlt⟩ := s.access_ok _ _ _ _ _ haccess
  rw [State.afterString_mem, s.pokes_get ps _ hwf hps hlt (by rw [hlen, valueBytes_length]), valueBytes_eq]

/-! ## The statements of the family -/

/-- Settles O43: the flags are those of a subtraction without borrow, and the index moves as after any element. -/
theorem scasCompletes : Obligations.ScasCompletes := by
  unfold Obligations.ScasCompletes
  intro s w b hrep hread
  have accessed := elementAccessed_withStatus s (subFlags (s.reg w accNum) b false)
  exact ⟨s.afterScas w b, exec_scas_next s w b hrep hread,
    subStatus_setStatus _ b false s.eflags (Nat.zero_lt_of_lt (one_lt_bits w)), accessed.afterString_flagsKept w,
    accessed.afterString_edi w, accessed.afterString_regsKept w, accessed.afterString_segs w, fun _ _ => rfl,
    accessed.afterString_systemKept w, accessed.afterString_completed w⟩

/-- Settles O44: the element is the bytes stored, and the index moves as after any element. -/
theorem stosCompletes : Obligations.StosCompletes := by
  unfold Obligations.StosCompletes
  intro s w ps hrep hwf haccess hps
  have accessed := elementAccessed_pokes s ps (valueBytes w (s.reg w accNum))
  exact ⟨s.afterStos w ps, exec_stos_next s w ps hrep haccess, s.afterStos_bytes w ps hwf haccess hps,
    fun a ha => s.pokes_get_other ps _ a ha, accessed.afterString_edi w, accessed.afterString_regsKept w,
    s.pokes_eflags ps _, accessed.afterString_segs w, accessed.afterString_systemKept w,
    accessed.afterString_completed w⟩

end Sys2Proof.Machine
end

section
/-! The family of 46_system_store: a system word stored in an r/m operand, as the store of a word or of the double word whose
low half it is; the verification of a selector against its descriptor. -/

namespace Sys2Proof.Machine

/-! ## An operand that is only written (46_system_store R337) -/

/-- The operand reads as what is stored in it, and nothing beside it has changed. -/
theorem State.afterModify_operandIs_of_slot (s : State) (w : Width) (rm : RM) (ws : List Nat) (v : BitVec w.bits) (f : Dword)
    (hwf : Memory.wf s.mem = true) (hslot : s.slot w rm = .ok ws) (hws : ws.Nodup) :
    operandIs s (s.afterModify w rm ws v f) w rm ws v := by
  cases rm with
  | reg r => exact ⟨rfl, fun _ _ => rfl⟩
  | mem m =>
    obtain ⟨hlen, hlt⟩ := s.access_ok _ _ _ _ _ hslot
    have stored := (s.setEflags f).pokes_get ws (valueBytes w v) hwf hws hlt (by rw [hlen, valueBytes_length])
    exact ⟨State.pokes_regs _ _ _, stored.trans (valueBytes_eq w v), fun b hb => State.pokes_get_other _ ws _ b hb⟩

/-! ## A system word stored (R337) -/

/-- What is stored of a system word, with its width: the word; in a 32-bit register, a double word whose upper half is free. -/
def State.storedWord (s : State) (v : Word) : RM → (w : Width) × BitVec w.bits
  | .mem _ => ⟨.word, v⟩
  | .reg _ =>
    match s.os with
    | .s16 => ⟨.word, v⟩
    | .s32 => ⟨.dword, lowWord (Config.drawWord s.draws .upper) (v.setWidth 32)⟩

/-- What an instruction leaves that stores the system word `v`. -/
abbrev State.afterStoreWord (s : State) (v : Word) (rm : RM) (ws : List Nat) : State :=
  s.afterModify (s.storedWord v rm).1 rm ws (s.storedWord v rm).2 s.eflags

section
variable (s : State) (v : Word)

/-- In memory, and in a register at OS = 16, the word itself is stored. -/
theorem State.storedWord_eq_word (rm : RM) (h : s.os = .s16 ∨ ∃ m, rm = .mem m) : s.storedWord v rm = ⟨.word, v⟩ := by
  obtain hos | ⟨m, rfl⟩ := h
  · cases rm <;> simp only [State.storedWord, hos]
  · rfl

/-- In a register at OS = 32 the word is the low half of what is stored. -/
theorem State.storedWord_reg_s32 (r : RegNum) (h : s.os = .s32) :
    s.storedWord v (.reg r) = ⟨.dword, lowWord (Config.drawWord s.draws .upper) (v.setWidth 32)⟩ := by
  simp only [State.storedWord, h]

/-- Storing a system word where its operand may be written. -/
theorem storeWord_of_slot (rm : RM) (ws : List Nat) (h : s.slot .word rm = .ok ws) :
    storeWord v rm s = .ok (s.afterStoreWord v rm ws) := by
  cases rm with
  | reg r =>
    cases hos : s.os with
    | s16 => rw [State.afterStoreWord, s.storedWord_eq_word v _ (.inl hos), storeWord, hos]; rfl
    | s32 => rw [State.afterStoreWord, s.storedWord_reg_s32 v r hos, storeWord, hos]; rfl
  | mem m => exact Res.bind_ok.2 ⟨_, (s.memWrite_ok _ _ _ .word v).2 ⟨ws, h, rfl⟩, rfl⟩

/-- The low half of the register is the word, whatever the operand size. -/
theorem State.afterStoreWord_reg (r : RegNum) (ws : List Nat) : (s.afterStoreWord v (.reg r) ws).reg .word r = v := by
  cases hos : s.os with
  | s16 =>
    rw [State.afterStoreWord, s.storedWord_eq_word v _ (.inl hos)]
    exact s.regs.read_write_same .word r v
  | s32 =>
    rw [State.afterStoreWord, s.storedWord_reg_s32 v r hos]
    calc (s.regs.write .dword r (lowWord (Config.drawWord s.draws .upper) (v.setWidth 32))).read .word r
        = (lowWord (Config.drawWord s.draws .upper) (v.setWidth 32)).extractLsb' 0 16 := by
          simp only [Regs.read, Regs.write, Regs.get_set_same]
      _ = (v.setWidth 32).extractLsb' 0 16 := lowWord_low _ _
      _ = v := (BitVec.extractLsb'_setWidth_of_le (by decide)).trans BitVec.extractLsb'_eq_self

/-- No byte register is written. -/
theorem State.regHome_storedWord (rm : RM) (r : RegNum) : regHome (s.storedWord v rm).1 r = r := by
  cases rm with
  | mem m => rfl
  | reg q => cases hos : s.os <;> simp [State.storedWord, hos, regHome]

theorem State.afterStoreWord_regsKept (r : RegNum) (ws : List Nat) : regsKept [r] s (s.afterStoreWord v (.reg r) ws) :=
  fun q hq => s.regs.get_write_other _ r q _ (by rw [s.regHome_storedWord v]; exact List.ne_of_not_mem_cons hq)

theorem State.afterStoreWord_memKept (r : RegNum) (ws : List Nat) : memKept [] s (s.afterStoreWord v (.reg r) ws) :=
  fun _ _ => rfl

/-- A word stored whole. -/
theorem State.afterStoreWord_operandIs (rm : RM) (ws : List Nat) (hnarrow : s.os = .s16 ∨ ∃ m, rm = .mem m)
    (hwf : Memory.wf s.mem = true) (hslot : s.slot .word rm = .ok ws) (hws : ws.Nodup) :
    operandIs s (s.afterStoreWord v rm ws) .word rm ws v := by
  rw [State.afterStoreWord, s.storedWord_eq_word v rm hnarrow]
  exact s.afterModify_operandIs_of_slot .word rm ws v s.eflags hwf hslot hws

end

/-! ## SLDT, STR, SMSW (R334–R336) -/

/-- In protected mode the guard of R129 lets an instruction go on. -/
theorem State.needProt_bind {α : Type} (s : State) (x : Res α) (h : s.mode = .prot) : (s.needProt >>= fun _ => x) = x := by
  rw [State.needProt, if_pos h]; rfl

/-- SLDT and STR in protected mode and SMSW in every mode store their word. -/
theorem exec_systemWord (s : State) (i : Instr) (v : Word) (rm : RM)
    (hi : s.mode = .prot ∧ (i = .sldt rm ∧ v = s.ldtr.selector ∨ i = .str rm ∧ v = s.tr) ∨
      i = .smsw rm ∧ v = s.cr0.extractLsb' 0 16) :
    exec i s = conclude s (storeWord v rm s) := by
  obtain ⟨hprot, ⟨rfl, rfl⟩ | ⟨rfl, rfl⟩⟩ | ⟨rfl, rfl⟩ := hi
  · exact congrArg (conclude s) (s.needProt_bind (storeWord s.ldtr.selector rm s) hprot)
  · exact congrArg (conclude s) (s.needProt_bind (storeWord s.tr rm s) hprot)
  · rw [← BitVec.setWidth_eq_extractLsb' (by decide)]; rfl

/-! ## A selector verified (R348) -/

/-- A null selector is 0, 1, 2 or 3: its RPL alone may be set. -/
theorem nullSel_iff (sel : Word) : nullSel sel = true ↔ sel.toNat < 4 := by
  rw [nullSel, beq_iff_eq, ← BitVec.toNat_inj]
  simp only [BitVec.extractLsb'_toNat, Nat.shiftRight_eq_div_pow, BitVec.ofNat_eq_ofNat, BitVec.toNat_ofNat]
  have := sel.isLt
  omega

/-- The less privileged of two levels is within a level exactly where both are. -/
theorem outerLevel_le_iff (a b d : BitVec 2) : outerLevel a b ≤ d ↔ a ≤ d ∧ b ≤ d := by
  unfold outerLevel
  split <;> bv_omega

section
variable (s : State) (sel : Word)

theorem State.levelAllows_iff (d : Descriptor) : s.levelAllows sel d = true ↔ s.cpl ≤ d.dpl ∧ rpl sel ≤ d.dpl :=
  decide_eq_true_iff.trans (outerLevel_le_iff _ _ _)

theorem State.readable_iff (d : Descriptor) : s.readable sel d = true ↔
    d.isReadable = true ∧ (d.isConforming = true ∨ s.cpl ≤ d.dpl ∧ rpl sel ≤ d.dpl) := by
  rw [State.readable, Bool.and_eq_true_iff, Bool.or_eq_true_iff, s.levelAllows_iff]

theorem State.writable_iff (d : Descriptor) : s.writable sel d = true ↔
    d.isWritable = true ∧ s.cpl ≤ d.dpl ∧ rpl sel ≤ d.dpl := by
  rw [State.writable, Bool.and_eq_true_iff, s.levelAllows_iff]

/-- Where the descriptor does not page-fault a check answers, and it is true exactly of a selector that is not null, inside its
table, whose descriptor passes. -/
theorem State.verify_answers (f : Descriptor → Bool) (hfault : ∀ c lin, s.desc sel ≠ some (.pageFault c lin)) :
    ∃ z, s.verify sel f = .ok z ∧
      (z = true ↔ 4 ≤ sel.toNat ∧ ∃ d, s.desc sel = some (.found d) ∧ f d = true) := by
  unfold State.verify
  by_cases hnull : nullSel sel = true
  · have low := (nullSel_iff sel).1 hnull
    exact ⟨false, if_pos hnull, by simp [Nat.not_le.2 low]⟩
  · have high : 4 ≤ sel.toNat := Nat.not_lt.1 fun low => hnull ((nullSel_iff sel).2 low)
    rw [if_neg hnull]
    cases hdesc : s.desc sel with
    | none => exact ⟨false, rfl, by simp⟩
    | some answer =>
      cases answer with
      | pageFault c lin => exact absurd hdesc (hfault c lin)
      | found d => exact ⟨f d, rfl, by simp [high]⟩

end

/-! ## VERR, VERW (R346, R347) -/

/-- Both write the answer of their check to ZF, and nothing else. -/
theorem verifyRm_completes (s : State) (f : State → Word → Descriptor → Bool) (rm : RM) (sel : Word) (hprot : s.mode = .prot)
    (hread : s.rmRead .word rm = .ok sel) (hfault : ∀ c lin, s.desc sel ≠ some (.pageFault c lin)) :
    ∃ t, conclude s (verifyRm f rm s) = .next t ∧
      (flag t.eflags .zf = true ↔ 4 ≤ sel.toNat ∧ ∃ d, s.desc sel = some (.found d) ∧ f s sel d = true) ∧
      flagsKept [.zf] s t ∧ t.regs = s.regs ∧ t.segs = s.segs ∧ memKept [] s t ∧ systemKept s t ∧ completed s t := by
  obtain ⟨z, hverify, hz⟩ := s.verify_answers sel (f s sel) hfault
  have answers : verifyRm f rm s = .ok (s.setEflags (setFlag s.eflags .zf z)).advance :=
    (s.needProt_bind _ hprot).trans (Res.bind_ok.2 ⟨sel, hread, Res.bind_ok.2 ⟨z, hverify, rfl⟩⟩)
  refine ⟨_, congrArg (conclude s) answers, ?_, flagsKept_setFlag s _ .zf z rfl, rfl, rfl, setEflags_advance_memKept s _,
    setEflags_advance_systemKept s _, setEflags_advance_completed s _⟩
  rw [← hz, State.advance_eflags, State.setEflags_eflags, flag_setFlag, if_pos rfl]

/-! ## The statements of the family -/

/-- Settles O48: the operand takes what is stored of the word, and a store in an operand keeps the rest. -/
theorem systemWordStoresComplete : Obligations.SystemWordStoresComplete := by
  unfold Obligations.SystemWordStoresComplete
  intro s i v rm ws hi hwf hslot hws
  refine ⟨s.afterStoreWord v rm ws, ?_, fun hnarrow => s.afterStoreWord_operandIs v rm ws hnarrow hwf hslot hws, ?_,
    s.afterModify_eflags _ _ _ _ _, s.afterModify_segs _ _ _ _ _, s.afterModify_systemKept _ _ _ _ _,
    s.afterModify_completed _ _ _ _ _⟩
  · rw [exec_systemWord s i v rm hi, conclude_next]
    exact storeWord_of_slot s v rm ws hslot
  · rintro r rfl
    exact ⟨s.afterStoreWord_reg v r ws, s.afterStoreWord_regsKept v r ws, s.afterStoreWord_memKept v r ws⟩

/-- Settles O49: ZF is the answer of the check, which is the predicate R348 spells. -/
theorem segmentVerifications : Obligations.SegmentVerifications := by
  unfold Obligations.SegmentVerifications
  intro s rm sel hprot hread hfault
  have verr := verifyRm_completes s State.readable rm sel hprot hread hfault
  have verw := verifyRm_completes s State.writable rm sel hprot hread hfault
  simp only [State.readable_iff] at verr
  simp only [State.writable_iff] at verw
  exact ⟨verr, verw⟩

end Sys2Proof.Machine
end

section
/-! The family of 47_wait_xchg_xlat: the address of XLATB's table element in integers; the byte read there written to AL. -/

namespace Sys2Proof.Machine

/-! ## The low byte of a register (10_state R22, R24) -/

/-- A low byte replaced: the old upper bits before the new byte. -/
theorem putByte_low (v : Dword) (b : Byte) : putByte v false b = v.extractLsb' 8 24 ++ b := by
  refine BitVec.eq_of_getLsbD_eq fun i hi => ?_
  rw [putByte_bit, BitVec.getLsbD_append, BitVec.getLsbD_extractLsb']
  by_cases low : i < 8
  · simp [byteShift, low]
  · have : i - 8 < 24 ∧ 8 + (i - 8) = i := by omega
    simp [byteShift, low, this]

/-- AL is EAX modulo 256. -/
theorem al_toNat (s : State) : (s.reg .byte accNum).toNat = s.regs.eax.toNat % 256 := by
  have al : s.reg .byte accNum = s.regs.eax.extractLsb' 0 8 := rfl
  rw [al, BitVec.extractLsb'_toNat, Nat.shiftRight_zero]
  rfl

/-! ## The address of XLATB's table element (R370) -/

section
variable (s : State)

/-- (E)BX plus AL, unsigned, before it is reduced to the address size. -/
theorem ebx_add_al_toNat :
    (s.regs.ebx + (s.reg .byte accNum).setWidth 32).toNat = (s.regs.ebx.toNat + s.regs.eax.toNat % 256) % 2 ^ 32 := by
  have unsigned : ((s.reg .byte accNum).setWidth 32).toNat = (s.reg .byte accNum).toNat :=
    BitVec.toNat_setWidth_of_le (by decide)
  rw [BitVec.toNat_add, unsigned, al_toNat]

theorem State.xlatOffset_s32 (h : s.as = .s32) :
    s.xlatOffset.toNat = (s.regs.ebx.toNat + s.regs.eax.toNat % 256) % 2 ^ 32 := by
  simp only [State.xlatOffset, h, ebx_add_al_toNat]

theorem State.xlatOffset_s16 (h : s.as = .s16) :
    s.xlatOffset.toNat = (s.regs.ebx.toNat + s.regs.eax.toNat % 256) % 2 ^ 16 := by
  simp only [State.xlatOffset, h]
  rw [BitVec.toNat_setWidth_of_le (by decide), BitVec.toNat_setWidth, ebx_add_al_toNat]
  exact Nat.mod_mod_of_dvd _ (by decide)

end

/-! ## XLATB (R370) -/

/-- What XLATB leaves that has read the byte `b`: AL written, as an operand that takes `b` and leaves the flags. -/
abbrev State.afterXlatb (s : State) (b : Byte) : State := s.afterModify .byte (.reg accNum) [] b s.eflags

section
variable (s : State) (b : Byte)

theorem exec_xlatb_next (hread : s.memRead (s.cur.seg.getD .ds) s.xlatOffset.toNat .byte = .ok b) :
    exec .xlatb s = .next (s.afterXlatb b) :=
  (conclude_next s _ (translate s)).2 (Res.bind_ok.2 ⟨b, hread, rfl⟩)

theorem State.afterXlatb_eax : (s.afterXlatb b).regs.eax = s.regs.eax.extractLsb' 8 24 ++ b := putByte_low _ _

theorem State.afterXlatb_regsKept : regsKept [.n0] s (s.afterXlatb b) := fun r hr =>
  s.regs.get_write_other .byte accNum r b (List.ne_of_not_mem_cons hr)

theorem State.afterXlatb_memKept : memKept [] s (s.afterXlatb b) := fun _ _ => rfl

end

/-! ## The statement of the family -/

/-- Settles O52: the address in integers is the model's at either address size, and what is read there is written to AL. -/
theorem xlatbCompletes : Obligations.XlatbCompletes := by
  unfold Obligations.XlatbCompletes
  intro s b off hread
  have hoff : off = s.xlatOffset.toNat := by
    cases h : s.as with
    | s32 => simp only [off, h, s.xlatOffset_s32 h]
    | s16 => simp only [off, h, s.xlatOffset_s16 h]
  rw [hoff] at hread
  exact ⟨s.afterXlatb b, exec_xlatb_next s b hread, s.afterXlatb_eax b, s.afterXlatb_regsKept b,
    s.afterModify_eflags _ _ _ _ _, s.afterModify_segs _ _ _ _ _, s.afterXlatb_memKept b,
    s.afterModify_systemKept _ _ _ _ _, s.afterModify_completed _ _ _ _ _⟩

end Sys2Proof.Machine
end

section
/-! The encoding: what each reading of a field, of ModRM, SIB, displacement and immediate answers, as the bytes it has taken; the
opcode map row by row; decoding and encoding as inverses of one another. -/

namespace Sys2Proof

/-! ## Fields (30_encoding R113–R118) -/

@[simp] theorem RegNum.ofBits_toBits (r : RegNum) : RegNum.ofBits r.toBits = r := by cases r <;> rfl

@[simp] theorem RegNum.toBits_ofBits : ∀ b : BitVec 3, (RegNum.ofBits b).toBits = b := by decide

@[simp] theorem Base16.ofBits_toBits (b : Base16) : Base16.ofBits b.toBits = b := by cases b <;> rfl

@[simp] theorem Base16.toBits_ofBits : ∀ b : BitVec 3, (Base16.ofBits b).toBits = b := by decide

@[simp] theorem Scale.ofBits_toBits (ss : Scale) : Scale.ofBits ss.toBits = ss := by cases ss <;> rfl

@[simp] theorem Scale.toBits_ofBits : ∀ b : BitVec 2, (Scale.ofBits b).toBits = b := by decide

section
variable (m : BitVec 2) (reg rm : BitVec 3)

@[simp] theorem fieldMod_joinFields : fieldMod (joinFields m reg rm) = m := by
  revert m reg rm; decide

@[simp] theorem fieldReg_joinFields : fieldReg (joinFields m reg rm) = reg := by
  revert m reg rm; decide

@[simp] theorem fieldRm_joinFields : fieldRm (joinFields m reg rm) = rm := by
  revert m reg rm; decide

end

/-- A byte is put together again from its fields. -/
@[simp] theorem joinFields_fields : ∀ b : Byte, joinFields (fieldMod b) (fieldReg b) (fieldRm b) = b := by decide

/-! ## Little-endian fields (20_memory R81) -/

theorem take8_iff (bs rest : List Byte) (v : Byte) : take8 bs = .ok (v, rest) ↔ bs = v :: rest := by
  cases bs with
  | nil => simp [take8]
  | cons b bs => simp [take8]

theorem bytes16_append (b1 b0 : Byte) : bytes16 (b1 ++ b0) = [b0, b1] := by
  simp only [bytes16, BitVec.extractLsb'_append_eq_right, BitVec.extractLsb'_append_eq_left]

theorem append_bytes16 (v : BitVec 16) : (v.extractLsb' 8 8 ++ v.extractLsb' 0 8 : BitVec 16) = v := by
  refine BitVec.eq_of_getLsbD_eq fun i hi => ?_
  simp only [BitVec.getLsbD_append, BitVec.getLsbD_extractLsb']
  by_cases low : i < 8
  · simp [low]
  · simp [low, show i - 8 < 8 by omega, show 8 + (i - 8) = i by omega]

theorem take16_iff (bs rest : List Byte) (v : BitVec 16) : take16 bs = .ok (v, rest) ↔ bs = bytes16 v ++ rest := by
  constructor
  · intro h
    match bs, h with
    | b0 :: b1 :: bs, h =>
      obtain ⟨rfl, rfl⟩ : b1 ++ b0 = v ∧ bs = rest := by simpa [take16] using h
      rw [bytes16_append]; rfl
  · rintro rfl
    exact congrArg (fun x => Except.ok (x, rest)) (append_bytes16 v)

/-- The four bytes of a 32-bit value are those of its low half and then those of its high half. -/
theorem bytes32_append (b3 b2 b1 b0 : Byte) : bytes32 (b3 ++ b2 ++ b1 ++ b0) = [b0, b1, b2, b3] := by
  have bit : ∀ k (b : Byte), (∀ i, i < 8 → (b3 ++ b2 ++ b1 ++ b0).getLsbD (k + i) = b.getLsbD i) →
      (b3 ++ b2 ++ b1 ++ b0).extractLsb' k 8 = b := fun k b h =>
    BitVec.eq_of_getLsbD_eq fun i hi => by rw [BitVec.getLsbD_extractLsb', h i hi, decide_eq_true hi, Bool.true_and]
  simp only [bytes32, List.cons.injEq, and_true]
  refine ⟨bit 0 b0 ?_, bit 8 b1 ?_, bit 16 b2 ?_, bit 24 b3 ?_⟩ <;>
    intro i hi <;> simp only [BitVec.getLsbD_append]
  · simp [hi]
  · simp [show ¬ 8 + i < 8 by omega, show 8 + i - 8 = i by omega, hi]
  · simp [show ¬ 16 + i < 8 by omega, show 16 + i - 8 - 8 = i by omega, show ¬ 16 + i - 8 < 8 by omega, hi]
  · simp [show ¬ 24 + i < 8 by omega, show 24 + i - 8 - 8 - 8 = i by omega, show ¬ 24 + i - 8 < 8 by omega,
      show ¬ 24 + i - 8 - 8 < 8 by omega]

theorem append_bytes32 (v : BitVec 32) :
    (v.extractLsb' 24 8 ++ v.extractLsb' 16 8 ++ v.extractLsb' 8 8 ++ v.extractLsb' 0 8 : BitVec 32) = v := by
  refine BitVec.eq_of_getLsbD_eq fun i hi => ?_
  simp only [BitVec.getLsbD_append, BitVec.getLsbD_extractLsb']
  by_cases h0 : i < 8
  · simp [h0]
  by_cases h1 : i < 16
  · simp [h0, show i - 8 < 8 by omega, show 8 + (i - 8) = i by omega]
  by_cases h2 : i < 24
  · simp [h0, show ¬ i - 8 < 8 by omega, show i - 8 - 8 < 8 by omega, show 16 + (i - 8 - 8) = i by omega]
  · simp [h0, show ¬ i - 8 < 8 by omega, show ¬ i - 8 - 8 < 8 by omega, show i - 8 - 8 - 8 < 8 by omega,
      show 24 + (i - 8 - 8 - 8) = i by omega]

theorem take32_iff (bs rest : List Byte) (v : BitVec 32) : take32 bs = .ok (v, rest) ↔ bs = bytes32 v ++ rest := by
  constructor
  · intro h
    match bs, h with
    | b0 :: b1 :: b2 :: b3 :: bs, h =>
      obtain ⟨rfl, rfl⟩ : b3 ++ b2 ++ b1 ++ b0 = v ∧ bs = rest := by simpa [take32] using h
      rw [bytes32_append]; rfl
  · rintro rfl
    exact congrArg (fun x => Except.ok (x, rest)) (append_bytes32 v)


/-! ## Displacements (R114–R116) -/

/-- A reading in two parts answers when both do. -/
theorem decode_bind_ok {α β : Type} {x : Except DecErr α} {f : α → Except DecErr β} {r : β} :
    (x >>= f) = .ok r ↔ ∃ a, x = .ok a ∧ f a = .ok r := by
  cases x with
  | error e => simp [bind, Except.bind]
  | ok a => simp [bind, Except.bind]

/-- What a reading answers, wrapped. -/
theorem decode_map_ok {α β : Type} {x : Except DecErr α} {f : α → β} {r : β} :
    f <$> x = .ok r ↔ ∃ a, x = .ok a ∧ f a = r := by
  cases x with
  | error e => simp [Functor.map, Except.map]
  | ok a => simp [Functor.map, Except.map]

/-- A `mod` field other than 3 is 0, 1 or 2, the three displacement forms. -/
theorem mod_cases : ∀ md : BitVec 2, md ≠ 3 → md = 0 ∨ md = 1 ∨ md = 2 := by decide

theorem takeDisp16_iff (md : BitVec 2) (hmd : md ≠ 3) (bs rest : List Byte) (d : Disp16) :
    takeDisp16 md bs = .ok (d, rest) ↔ d.md = md ∧ bs = d.bytes ++ rest := by
  obtain rfl | rfl | rfl := mod_cases md hmd
  · cases d <;> simp [takeDisp16, Disp16.md, Disp16.bytes]
  · cases d <;> simp [takeDisp16, Disp16.md, Disp16.bytes, decode_map_ok, take8_iff]
  · cases d <;> simp [takeDisp16, Disp16.md, Disp16.bytes, decode_map_ok, take16_iff]

theorem takeDisp32_iff (md : BitVec 2) (hmd : md ≠ 3) (bs rest : List Byte) (d : Disp32) :
    takeDisp32 md bs = .ok (d, rest) ↔ d.md = md ∧ bs = d.bytes ++ rest := by
  obtain rfl | rfl | rfl := mod_cases md hmd
  · cases d <;> simp [takeDisp32, Disp32.md, Disp32.bytes]
  · cases d <;> simp [takeDisp32, Disp32.md, Disp32.bytes, decode_map_ok, take8_iff]
  · cases d <;> simp [takeDisp32, Disp32.md, Disp32.bytes, decode_map_ok, take32_iff]

theorem Disp16.md_ne_three (d : Disp16) : d.md ≠ 3 := by cases d <;> simp [Disp16.md]

theorem Disp32.md_ne_three (d : Disp32) : d.md ≠ 3 := by cases d <;> simp [Disp32.md]

/-- Only the absent displacement has `mod` 0. -/
theorem Disp16.md_eq_zero (d : Disp16) : d.md = 0#2 ↔ d = .none := by cases d <;> simp [Disp16.md]

theorem Disp32.md_eq_zero (d : Disp32) : d.md = 0#2 ↔ d = .none := by cases d <;> simp [Disp32.md]

/-! ## Memory operands, ModRM and SIB (R113–R117) -/

/-- The `mod` field of a memory operand. -/
def Mem.md : Mem → BitVec 2
  | .base16 _ d => d.md
  | .base32 _ d | .sib _ _ _ d => d.md
  | .abs16 _ | .abs32 _ | .sibAbs _ _ _ => 0

/-- The r/m field of a memory operand. -/
def Mem.rm : Mem → BitVec 3
  | .base16 b _ => b.toBits
  | .abs16 _ => 6
  | .base32 b _ => b.toBits
  | .abs32 _ => 5
  | .sib _ _ _ _ | .sibAbs _ _ _ => 4

/-- The bytes of a memory operand after its ModRM byte. -/
def Mem.tail : Mem → List Byte
  | .base16 _ d => d.bytes
  | .abs16 d => bytes16 d
  | .base32 _ d => d.bytes
  | .abs32 d => bytes32 d
  | .sib ss i b d => joinFields ss.toBits i.toBits b.toBits :: d.bytes
  | .sibAbs ss i d => joinFields ss.toBits i.toBits 5 :: bytes32 d

theorem Mem.encode_eq (m : Mem) (reg : RegNum) : m.encode reg = joinFields m.md reg.toBits m.rm :: m.tail := by
  cases m <;> rfl

theorem Mem.md_ne_three (m : Mem) : m.md ≠ 3 := by
  cases m with
  | base16 _ d => exact d.md_ne_three
  | base32 _ d | sib _ _ _ d => exact d.md_ne_three
  | abs16 | abs32 | sibAbs => exact (by decide : (0 : BitVec 2) ≠ 3)

/-- A field is that of a register number exactly where the number is the field's. -/
theorem RegNum.toBits_eq_iff (r : RegNum) (b : BitVec 3) : r.toBits = b ↔ r = RegNum.ofBits b := by
  constructor
  · rintro rfl; exact r.ofBits_toBits.symm
  · rintro rfl; exact RegNum.toBits_ofBits b

theorem Base16.toBits_eq_iff (x : Base16) (b : BitVec 3) : x.toBits = b ↔ x = Base16.ofBits b := by
  constructor
  · rintro rfl; exact x.ofBits_toBits.symm
  · rintro rfl; exact Base16.toBits_ofBits b

/-- The row of R116 for BP without displacement is the absolute form. -/
theorem Mem.wf_base16 (b : Base16) (d : Disp16) :
    (Mem.base16 b d).wf .s16 = true ↔ ¬(d.md = 0#2 ∧ b.toBits = 6#3) := by
  rw [Disp16.md_eq_zero, Base16.toBits_eq_iff]
  change _ ↔ ¬(d = .none ∧ b = .bp)
  simp [Mem.wf]
  tauto

/-- The r/m field 4 begins a SIB byte, and EBP without displacement is the absolute form (R114). -/
theorem Mem.wf_base32 (b : RegNum) (d : Disp32) :
    (Mem.base32 b d).wf .s32 = true ↔ b.toBits ≠ 4#3 ∧ ¬(d.md = 0#2 ∧ b.toBits = 5#3) := by
  rw [Disp32.md_eq_zero, Ne, RegNum.toBits_eq_iff, RegNum.toBits_eq_iff]
  change _ ↔ ¬(b = .n4) ∧ ¬(d = .none ∧ b = .n5)
  simp [Mem.wf]
  tauto

/-- A SIB byte with base 101 and no displacement is the form without base (R115). -/
theorem Mem.wf_sib (ss : Scale) (i b : RegNum) (d : Disp32) :
    (Mem.sib ss i b d).wf .s32 = true ↔ ¬(d.md = 0#2 ∧ b.toBits = 5#3) := by
  rw [Disp32.md_eq_zero, RegNum.toBits_eq_iff]
  change _ ↔ ¬(d = .none ∧ b = .n5)
  simp [Mem.wf]
  tauto

/-- No operand of one address size is one of the other (R114, R116). -/
theorem Mem.wf_s16_cases (m : Mem) (h : m.wf .s16 = true) : (∃ b d, m = .base16 b d) ∨ ∃ d, m = .abs16 d := by
  cases m with
  | base16 b d => exact .inl ⟨b, d, rfl⟩
  | abs16 d => exact .inr ⟨d, rfl⟩
  | base32 | abs32 | sib | sibAbs => simp [Mem.wf] at h

theorem takeMem16_iff (md : BitVec 2) (hmd : md ≠ 3) (rm : BitVec 3) (bs rest : List Byte) (m : Mem) :
    takeMem16 md rm bs = .ok (m, rest) ↔ m.wf .s16 = true ∧ m.md = md ∧ m.rm = rm ∧ bs = m.tail ++ rest := by
  constructor
  · intro h
    unfold takeMem16 at h
    split at h
    next habs =>
      obtain ⟨rfl, rfl⟩ : md = 0 ∧ rm = 6 := by simpa using habs
      obtain ⟨⟨d, r⟩, hd, heq⟩ := decode_bind_ok.1 h
      cases heq
      exact ⟨rfl, rfl, rfl, (take16_iff _ _ _).1 hd⟩
    next hbase =>
      obtain ⟨⟨d, r⟩, hd, heq⟩ := decode_bind_ok.1 h
      cases heq
      obtain ⟨rfl, rfl⟩ := (takeDisp16_iff md hmd _ _ _).1 hd
      exact ⟨(Mem.wf_base16 _ d).2 (by simpa using hbase), rfl, Base16.toBits_ofBits rm, rfl⟩
  · rintro ⟨hwf, rfl, rfl, rfl⟩
    obtain ⟨b, d, rfl⟩ | ⟨d, rfl⟩ := m.wf_s16_cases hwf
    · have hbase : ¬((Mem.base16 b d).md == 0 && (Mem.base16 b d).rm == 6) = true := by
        simpa [Mem.md, Mem.rm] using (Mem.wf_base16 b d).1 hwf
      have hd := (takeDisp16_iff _ hmd _ rest d).2 ⟨rfl, rfl⟩
      exact (if_neg hbase).trans (decode_bind_ok.2 ⟨(d, rest), hd, by rw [Mem.rm, b.ofBits_toBits]; rfl⟩)
    · exact decode_bind_ok.2 ⟨(d, rest), (take16_iff _ _ _).2 rfl, rfl⟩

/-- After a SIB byte: the form without base, or a base and a displacement. -/
theorem takeSib_cons (md : BitVec 2) (b : Byte) (bs : List Byte) :
    takeSib md (b :: bs) =
      if md == 0 && fieldRm b == 5 then
        (take32 bs >>= fun x =>
          pure (.sibAbs (Scale.ofBits (fieldMod b)) (RegNum.ofBits (fieldReg b)) x.1, x.2))
      else
        (takeDisp32 md bs >>= fun x =>
          pure (.sib (Scale.ofBits (fieldMod b)) (RegNum.ofBits (fieldReg b)) (RegNum.ofBits (fieldRm b)) x.1, x.2)) := by
  rfl

theorem takeSib_iff (md : BitVec 2) (hmd : md ≠ 3) (bs rest : List Byte) (m : Mem) :
    takeSib md bs = .ok (m, rest) ↔ m.wf .s32 = true ∧ m.md = md ∧ m.rm = 4 ∧ bs = m.tail ++ rest := by
  constructor
  · intro h
    obtain ⟨⟨b, bs'⟩, hb, _⟩ := decode_bind_ok.1 h
    obtain rfl := (take8_iff _ _ _).1 hb
    rw [takeSib_cons] at h
    split at h
    next hno =>
      obtain ⟨rfl, hbase⟩ : md = 0 ∧ fieldRm b = 5 := by simpa using hno
      obtain ⟨⟨d, r⟩, hd, heq⟩ := decode_bind_ok.1 h
      cases heq
      refine ⟨rfl, rfl, rfl, ?_⟩
      rw [(take32_iff _ _ _).1 hd, Mem.tail, Scale.toBits_ofBits, RegNum.toBits_ofBits, ← hbase, joinFields_fields]
      rfl
    next hbase =>
      obtain ⟨⟨d, r⟩, hd, heq⟩ := decode_bind_ok.1 h
      cases heq
      obtain ⟨rfl, rfl⟩ := (takeDisp32_iff md hmd _ _ _).1 hd
      refine ⟨(Mem.wf_sib _ _ _ d).2 (by simpa using hbase), rfl, rfl, ?_⟩
      rw [Mem.tail, Scale.toBits_ofBits, RegNum.toBits_ofBits, RegNum.toBits_ofBits, joinFields_fields]
      rfl
  · rintro ⟨hwf, rfl, hrm, rfl⟩
    cases m with
    | sib ss i b d =>
      have hbase : ¬(d.md == 0 && b.toBits == 5) = true := by simpa using (Mem.wf_sib ss i b d).1 hwf
      have hd := (takeDisp32_iff _ hmd _ rest d).2 ⟨rfl, rfl⟩
      simp only [Mem.tail, Mem.md, List.cons_append, takeSib_cons, fieldMod_joinFields, fieldReg_joinFields,
        fieldRm_joinFields, Scale.ofBits_toBits, RegNum.ofBits_toBits]
      exact (if_neg hbase).trans (decode_bind_ok.2 ⟨(d, rest), hd, rfl⟩)
    | sibAbs ss i d =>
      simp only [Mem.tail, Mem.md, List.cons_append, takeSib_cons, fieldMod_joinFields, fieldReg_joinFields,
        fieldRm_joinFields, Scale.ofBits_toBits, RegNum.ofBits_toBits]
      exact decode_bind_ok.2 ⟨(d, rest), (take32_iff _ rest d).2 rfl, rfl⟩
    | base16 | abs16 => simp [Mem.wf] at hwf
    | base32 b d => exact absurd hrm ((Mem.wf_base32 b d).1 hwf).1
    | abs32 d => exact absurd hrm (show ¬(5 : BitVec 3) = 4 by decide)

theorem takeMem32_iff (md : BitVec 2) (hmd : md ≠ 3) (rm : BitVec 3) (bs rest : List Byte) (m : Mem) :
    takeMem32 md rm bs = .ok (m, rest) ↔ m.wf .s32 = true ∧ m.md = md ∧ m.rm = rm ∧ bs = m.tail ++ rest := by
  by_cases hsib : rm = 4
  · subst hsib
    exact takeSib_iff md hmd bs rest m
  have hmem : takeMem32 md rm bs =
      if md == 0 && rm == 5 then (take32 bs >>= fun x => pure (.abs32 x.1, x.2))
      else (takeDisp32 md bs >>= fun x => pure (.base32 (RegNum.ofBits rm) x.1, x.2)) :=
    if_neg (by simpa using hsib)
  rw [hmem]
  constructor
  · intro h
    split at h
    next habs =>
      obtain ⟨rfl, rfl⟩ : md = 0 ∧ rm = 5 := by simpa using habs
      obtain ⟨⟨d, r⟩, hd, heq⟩ := decode_bind_ok.1 h
      cases heq
      exact ⟨rfl, rfl, rfl, (take32_iff _ _ _).1 hd⟩
    next hbase =>
      obtain ⟨⟨d, r⟩, hd, heq⟩ := decode_bind_ok.1 h
      cases heq
      obtain ⟨rfl, rfl⟩ := (takeDisp32_iff md hmd _ _ _).1 hd
      refine ⟨(Mem.wf_base32 _ d).2 ⟨?_, ?_⟩, rfl, RegNum.toBits_ofBits rm, rfl⟩
      · rw [RegNum.toBits_ofBits]; exact hsib
      · rw [RegNum.toBits_ofBits]; simpa using hbase
  · rintro ⟨hwf, rfl, rfl, rfl⟩
    cases m with
    | base32 b d =>
      have hbase : ¬((Mem.base32 b d).md == 0 && (Mem.base32 b d).rm == 5) = true := by
        simpa [Mem.md, Mem.rm] using ((Mem.wf_base32 b d).1 hwf).2
      have hd := (takeDisp32_iff _ hmd _ rest d).2 ⟨rfl, rfl⟩
      exact (if_neg hbase).trans (decode_bind_ok.2 ⟨(d, rest), hd, by rw [Mem.rm, b.ofBits_toBits]; rfl⟩)
    | abs32 d => exact decode_bind_ok.2 ⟨(d, rest), (take32_iff _ _ _).2 rfl, rfl⟩
    | base16 | abs16 => simp [Mem.wf] at hwf
    | sib | sibAbs => exact absurd rfl hsib

theorem takeMem_iff (as : OSize) (md : BitVec 2) (hmd : md ≠ 3) (rm : BitVec 3) (bs rest : List Byte) (m : Mem) :
    takeMem as md rm bs = .ok (m, rest) ↔ m.wf as = true ∧ m.md = md ∧ m.rm = rm ∧ bs = m.tail ++ rest := by
  cases as with
  | s16 => exact takeMem16_iff md hmd rm bs rest m
  | s32 => exact takeMem32_iff md hmd rm bs rest m

/-- After a ModRM byte: a register, or a memory operand. -/
theorem takeModRM_cons (as : OSize) (b : Byte) (bs : List Byte) :
    takeModRM as (b :: bs) =
      if fieldMod b == 3 then .ok (RegNum.ofBits (fieldReg b), .reg (RegNum.ofBits (fieldRm b)), bs)
      else (takeMem as (fieldMod b) (fieldRm b) bs >>= fun x => pure (RegNum.ofBits (fieldReg b), .mem x.1, x.2)) := by
  rfl

/-- A ModRM byte and what follows it are read exactly where they are the encoding of the operand read. -/
theorem takeModRM_iff (as : OSize) (bs rest : List Byte) (reg : RegNum) (x : RM) :
    takeModRM as bs = .ok (reg, x, rest) ↔ x.wf as = true ∧ bs = x.encode reg ++ rest := by
  constructor
  · intro h
    obtain ⟨⟨b, bs'⟩, hb, _⟩ := decode_bind_ok.1 h
    obtain rfl := (take8_iff _ _ _).1 hb
    rw [takeModRM_cons] at h
    split at h
    next hreg =>
      have hmod : fieldMod b = 3 := by simpa using hreg
      cases h
      refine ⟨rfl, ?_⟩
      rw [RM.encode, RegNum.toBits_ofBits, RegNum.toBits_ofBits, ← hmod, joinFields_fields]
      rfl
    next hmem =>
      obtain ⟨⟨m, r⟩, hm, heq⟩ := decode_bind_ok.1 h
      cases heq
      obtain ⟨hwf, hmd, hrm, rfl⟩ := (takeMem_iff as _ (by simpa using hmem) _ _ _ _).1 hm
      refine ⟨hwf, ?_⟩
      rw [RM.encode, m.encode_eq, hmd, hrm, RegNum.toBits_ofBits, joinFields_fields]
      rfl
  · rintro ⟨hwf, rfl⟩
    cases x with
    | reg r =>
      simp only [RM.encode, List.singleton_append, takeModRM_cons, fieldMod_joinFields, fieldReg_joinFields,
        fieldRm_joinFields, RegNum.ofBits_toBits]
      rfl
    | mem m =>
      have hmem : ¬(m.md == 3) = true := by simpa using m.md_ne_three
      simp only [RM.encode, m.encode_eq, List.cons_append, takeModRM_cons, fieldMod_joinFields, fieldReg_joinFields,
        fieldRm_joinFields, RegNum.ofBits_toBits]
      exact (if_neg hmem).trans
        (decode_bind_ok.2 ⟨(m, rest), (takeMem_iff as _ m.md_ne_three _ _ _ _).2 ⟨hwf, rfl, rfl, rfl⟩, rfl⟩)

/-- The encoding of an r/m operand begins with a byte that holds the `reg` field. -/
theorem RM.encode_reg (x : RM) (reg : RegNum) :
    ∃ b tail, x.encode reg = b :: tail ∧ RegNum.ofBits (fieldReg b) = reg := by
  cases x with
  | reg r => exact ⟨_, [], rfl, by rw [fieldReg_joinFields, RegNum.ofBits_toBits]⟩
  | mem m => exact ⟨_, m.tail, m.encode_eq reg, by rw [fieldReg_joinFields, RegNum.ofBits_toBits]⟩

/-! ## Immediates (R121) -/

/-- The size of an immediate. -/
def Imm.size : Imm → ImmSize
  | .i8 _ => .i8
  | .i16 _ => .i16
  | .i32 _ => .i32

theorem takeImm_iff (k : ImmSize) (bs rest : List Byte) (v : Imm) :
    takeImm k bs = .ok (v, rest) ↔ v.size = k ∧ bs = v.bytes ++ rest := by
  cases k with
  | i8 => cases v <;> simp [takeImm, decode_map_ok, take8_iff, Imm.size, Imm.bytes]
  | i16 => cases v <;> simp [takeImm, decode_map_ok, take16_iff, Imm.size, Imm.bytes]
  | i32 => cases v <;> simp [takeImm, decode_map_ok, take32_iff, Imm.size, Imm.bytes]

/-- An immediate fits exactly where it has the size that is read. -/
theorem Imm.fits_iff (w : Bool) (os : OSize) (v : Imm) : v.fits w os = true ↔ v.size = immSize w os := by
  cases w <;> cases os <;> cases v <;> simp [Imm.fits, Imm.size, immSize]


/-! ## Operands by form (R110) -/

/-- What stands after the opcode bytes. -/
inductive Operands where
  | none
  | rm (reg : RegNum) (x : RM)
  | rmByte (reg : RegNum) (x : RM) (v : Byte)
  | rmImm (reg : RegNum) (x : RM) (v : Imm)
  | byte (v : Byte)
  | word (v : BitVec 16)
  | imm (v : Imm)

/-- Their bytes. -/
def Operands.bytes : Operands → List Byte
  | .none => []
  | .rm reg x => x.encode reg
  | .rmByte reg x v => x.encode reg ++ [v]
  | .rmImm reg x v => x.encode reg ++ v.bytes
  | .byte v => [v]
  | .word v => bytes16 v
  | .imm v => v.bytes

/-- Operands that a form admits, and the instruction it makes of them. -/
def Form.Makes (c : Ctx) (i : Instr) : Form → Operands → Prop
  | .plain j, .none => j = i
  | .modrm f, .rm reg x => x.wf c.as = true ∧ ∃ g, f reg = some g ∧ g x = i
  | .modrmI8 f, .rmByte reg x v => x.wf c.as = true ∧ ∃ g, f reg = some g ∧ g x v = i
  | .modrmImm k f, .rmImm reg x v => x.wf c.as = true ∧ v.size = k ∧ ∃ g, f reg = some g ∧ g x v = i
  | .imm8 f, .byte v => f v = i
  | .imm16 f, .word v => f v = i
  | .imm k f, .imm v => v.size = k ∧ f v = i
  | _, _ => False

/-- A ModRM form: the `reg` field decides on the instruction, `k` reads what follows the r/m operand. -/
def takeExtension {α β : Type} (as : OSize) (f : RegNum → Option α) (k : α → RM → List Byte → Except DecErr β)
    (bs : List Byte) : Except DecErr β :=
  take8 bs >>= fun b =>
    (f (RegNum.ofBits (fieldReg b.1))).elim (.error .notInSource) fun g => takeModRM as bs >>= fun x => k g x.2.1 x.2.2

/-- A ModRM form answers exactly where its `reg` field names an instruction, and an operand it admits follows. -/
theorem takeExtension_iff {α β : Type} (as : OSize) (f : RegNum → Option α) (k : α → RM → List Byte → Except DecErr β)
    (bs : List Byte) (r : β) :
    takeExtension as f k bs = .ok r ↔
      ∃ reg x g rest, x.wf as = true ∧ f reg = some g ∧ bs = x.encode reg ++ rest ∧ k g x rest = .ok r := by
  constructor
  · intro h
    obtain ⟨⟨b, bs'⟩, hb, h⟩ := decode_bind_ok.1 h
    cases hg : f (RegNum.ofBits (fieldReg b)) with
    | none => simp [hg] at h
    | some g =>
      simp only [hg, Option.elim_some] at h
      obtain ⟨⟨reg, x, rest⟩, hx, hk⟩ := decode_bind_ok.1 h
      obtain ⟨hwf, rfl⟩ := (takeModRM_iff _ _ _ _ _).1 hx
      obtain ⟨b', tail, hbytes, hreg⟩ := x.encode_reg reg
      rw [hbytes] at hb
      cases hb
      exact ⟨reg, x, g, rest, hwf, hreg ▸ hg, rfl, hk⟩
  · rintro ⟨reg, x, g, rest, hwf, hg, rfl, h⟩
    obtain ⟨b, tail, hbytes, hreg⟩ := x.encode_reg reg
    refine decode_bind_ok.2 ⟨(b, tail ++ rest), by rw [hbytes]; rfl, ?_⟩
    simp only [hreg, hg, Option.elim_some]
    exact decode_bind_ok.2 ⟨_, (takeModRM_iff as _ rest reg x).2 ⟨hwf, rfl⟩, h⟩

section
variable (c : Ctx) (bs : List Byte)

theorem takeForm_modrm (f : RegNum → Option (RM → Instr)) :
    takeForm c (.modrm f) bs = takeExtension c.as f (fun g x rest => pure (g x, rest)) bs := by
  refine congrArg (take8 bs >>= ·) (funext fun b => ?_)
  cases h : f (RegNum.ofBits (fieldReg b.1)) <;> simp only [h] <;> rfl

theorem takeForm_modrmI8 (f : RegNum → Option (RM → Byte → Instr)) :
    takeForm c (.modrmI8 f) bs =
      takeExtension c.as f (fun g x rest => take8 rest >>= fun v => pure (g x v.1, v.2)) bs := by
  refine congrArg (take8 bs >>= ·) (funext fun b => ?_)
  cases h : f (RegNum.ofBits (fieldReg b.1)) <;> simp only [h] <;> rfl

theorem takeForm_modrmImm (k : ImmSize) (f : RegNum → Option (RM → Imm → Instr)) :
    takeForm c (.modrmImm k f) bs =
      takeExtension c.as f (fun g x rest => takeImm k rest >>= fun v => pure (g x v.1, v.2)) bs := by
  refine congrArg (take8 bs >>= ·) (funext fun b => ?_)
  cases h : f (RegNum.ofBits (fieldReg b.1)) <;> simp only [h] <;> rfl

end

/-- What is read before the end of an item, and the item made of it. -/
theorem decode_wrap_iff {α : Type} {x : Except DecErr (α × List Byte)} {f : α → Instr} {i : Instr} {rest : List Byte} :
    (x >>= fun v => pure (f v.1, v.2)) = .ok (i, rest) ↔ ∃ v, x = .ok (v, rest) ∧ f v = i := by
  rw [decode_bind_ok]
  constructor
  · rintro ⟨⟨v, r⟩, h, heq⟩
    cases heq
    exact ⟨v, h, rfl⟩
  · rintro ⟨v, h, rfl⟩
    exact ⟨(v, rest), h, rfl⟩

/-- A form reads exactly the bytes of operands it admits. -/
theorem takeForm_iff (c : Ctx) (f : Form) (bs rest : List Byte) (i : Instr) :
    takeForm c f bs = .ok (i, rest) ↔ ∃ o, f.Makes c i o ∧ bs = o.bytes ++ rest := by
  constructor
  · intro h
    cases f with
    | plain j => cases h; exact ⟨.none, rfl, rfl⟩
    | modrm f =>
      rw [takeForm_modrm, takeExtension_iff] at h
      obtain ⟨reg, x, g, r, hwf, hg, rfl, heq⟩ := h
      cases heq
      exact ⟨.rm reg x, ⟨hwf, g, hg, rfl⟩, rfl⟩
    | modrmI8 f =>
      rw [takeForm_modrmI8, takeExtension_iff] at h
      obtain ⟨reg, x, g, r, hwf, hg, rfl, h⟩ := h
      obtain ⟨v, hv, rfl⟩ := decode_wrap_iff.1 h
      obtain rfl := (take8_iff _ _ _).1 hv
      exact ⟨.rmByte reg x v, ⟨hwf, g, hg, rfl⟩, by simp [Operands.bytes]⟩
    | modrmImm k f =>
      rw [takeForm_modrmImm, takeExtension_iff] at h
      obtain ⟨reg, x, g, r, hwf, hg, rfl, h⟩ := h
      obtain ⟨v, hv, rfl⟩ := decode_wrap_iff.1 h
      obtain ⟨hk, rfl⟩ := (takeImm_iff _ _ _ _).1 hv
      exact ⟨.rmImm reg x v, ⟨hwf, hk, g, hg, rfl⟩, by simp [Operands.bytes]⟩
    | imm8 f =>
      obtain ⟨v, hv, rfl⟩ := decode_wrap_iff.1 h
      exact ⟨.byte v, rfl, (take8_iff _ _ _).1 hv⟩
    | imm16 f =>
      obtain ⟨v, hv, rfl⟩ := decode_wrap_iff.1 h
      exact ⟨.word v, rfl, (take16_iff _ _ _).1 hv⟩
    | imm k f =>
      obtain ⟨v, hv, rfl⟩ := decode_wrap_iff.1 h
      obtain ⟨hk, hbs⟩ := (takeImm_iff _ _ _ _).1 hv
      exact ⟨.imm v, ⟨hk, rfl⟩, hbs⟩
  · rintro ⟨o, hmakes, rfl⟩
    cases f with
    | plain j =>
      cases o with
      | none => cases hmakes; rfl
      | _ => exact hmakes.elim
    | modrm f =>
      cases o with
      | rm reg x =>
        obtain ⟨hwf, g, hg, rfl⟩ := hmakes
        rw [takeForm_modrm, takeExtension_iff]
        exact ⟨reg, x, g, rest, hwf, hg, rfl, rfl⟩
      | _ => exact hmakes.elim
    | modrmI8 f =>
      cases o with
      | rmByte reg x v =>
        obtain ⟨hwf, g, hg, rfl⟩ := hmakes
        rw [takeForm_modrmI8, takeExtension_iff]
        exact ⟨reg, x, g, v :: rest, hwf, hg, List.append_assoc _ _ _, rfl⟩
      | _ => exact hmakes.elim
    | modrmImm k f =>
      cases o with
      | rmImm reg x v =>
        obtain ⟨hwf, hk, g, hg, rfl⟩ := hmakes
        rw [takeForm_modrmImm, takeExtension_iff]
        exact ⟨reg, x, g, v.bytes ++ rest, hwf, hg, List.append_assoc _ _ _,
          decode_wrap_iff.2 ⟨v, (takeImm_iff _ _ _ _).2 ⟨hk, rfl⟩, rfl⟩⟩
      | _ => exact hmakes.elim
    | imm8 f =>
      cases o with
      | byte v => cases hmakes; rfl
      | _ => exact hmakes.elim
    | imm16 f =>
      cases o with
      | word v => exact decode_wrap_iff.2 ⟨v, (take16_iff _ _ _).2 rfl, hmakes⟩
      | _ => exact hmakes.elim
    | imm k f =>
      cases o with
      | imm v =>
        obtain ⟨hk, hi⟩ := hmakes
        exact decode_wrap_iff.2 ⟨v, (takeImm_iff _ _ _ _).2 ⟨hk, rfl⟩, hi⟩
      | _ => exact hmakes.elim


/-! ## The opcode map (R111, R127, R128) -/

/-- The opcode rows: those of the one-byte opcodes, and those after 0Fh. -/
def opcodeRows (c : Ctx) (two : Bool) : List OpRow := if two then rows2 else rows1 c

/-- The bytes before the opcode byte that the rows are looked up by. -/
def opcodePrefix (two : Bool) : List Byte := if two then [0x0F] else []

/-- The bytes of an item: an opcode, and operands that its form admits. -/
def Item (c : Ctx) (i : Instr) (bs : List Byte) : Prop :=
  ∃ two b o f, bs = opcodePrefix two ++ b :: o.bytes ∧ lookupForm (opcodeRows c two) b = some f ∧ f.Makes c i o

theorem takeRow_iff (c : Ctx) (rows : List OpRow) (b : Byte) (bs rest : List Byte) (i : Instr) :
    takeRow c rows b bs = .ok (i, rest) ↔
      ∃ f o, lookupForm rows b = some f ∧ f.Makes c i o ∧ bs = o.bytes ++ rest := by
  unfold takeRow
  cases h : lookupForm rows b with
  | none => simp
  | some f => simp [takeForm_iff]

/-- The patterns of the rows, which do not depend on the sizes. -/
def opcodePatterns (two : Bool) : List (Byte × Byte) := (opcodeRows default two).map fun r => (r.pat, r.mask)

theorem opcodePatterns_eq (c : Ctx) (two : Bool) : (opcodeRows c two).map (fun r => (r.pat, r.mask)) = opcodePatterns two := by
  cases two <;> rfl

/-- The place in the map of the row a byte selects. -/
def opcodeIndex (two : Bool) (b : Byte) : Nat := (opcodePatterns two).findIdx fun p => b &&& p.2 == p.1

/-- The row a byte selects is found by the patterns alone. -/
theorem lookupForm_eq (c : Ctx) (two : Bool) (b : Byte) :
    lookupForm (opcodeRows c two) b = (opcodeRows c two)[opcodeIndex two b]?.map fun r => r.form b := by
  rw [lookupForm, opcodeIndex, ← opcodePatterns_eq c two, List.findIdx_map, List.find?_eq_getElem?_findIdx]
  rfl

/-- 0Fh is no opcode of its own (R128). -/
theorem lookupForm_escape (c : Ctx) : lookupForm (opcodeRows c false) 0x0F = none := (lookupForm_eq c false _).trans rfl

/-- After a byte: an opcode of two bytes, or one of one. -/
theorem decodeItem_cons (c : Ctx) (b : Byte) (bs : List Byte) :
    decodeItem c (b :: bs) =
      if b == 0x0F then (take8 bs >>= fun x => takeRow c (opcodeRows c true) x.1 x.2)
      else takeRow c (opcodeRows c false) b bs := rfl

/-- Decoding answers exactly where the bytes are those of an item and the rest. -/
theorem decodeItem_iff (c : Ctx) (bs rest : List Byte) (i : Instr) :
    decodeItem c bs = .ok (i, rest) ↔ ∃ item, Item c i item ∧ bs = item ++ rest := by
  constructor
  · intro h
    obtain ⟨⟨b, bs'⟩, hb, _⟩ := decode_bind_ok.1 h
    obtain rfl := (take8_iff _ _ _).1 hb
    rw [decodeItem_cons] at h
    split at h
    next hesc =>
      obtain rfl : b = 0x0F := by simpa using hesc
      obtain ⟨⟨b2, bs2⟩, hb2, hrow⟩ := decode_bind_ok.1 h
      obtain rfl := (take8_iff _ _ _).1 hb2
      obtain ⟨f, o, hrow, hmakes, rfl⟩ := (takeRow_iff _ _ _ _ _ _).1 hrow
      exact ⟨_, ⟨true, b2, o, f, rfl, hrow, hmakes⟩, rfl⟩
    next =>
      obtain ⟨f, o, hrow, hmakes, rfl⟩ := (takeRow_iff _ _ _ _ _ _).1 h
      exact ⟨_, ⟨false, b, o, f, rfl, hrow, hmakes⟩, rfl⟩
  · rintro ⟨_, ⟨two, b, o, f, rfl, hrow, hmakes⟩, rfl⟩
    cases two with
    | true => exact (takeRow_iff c _ b _ rest i).2 ⟨f, o, hrow, hmakes, rfl⟩
    | false =>
      have hesc : ¬(b == 0x0F) = true := by
        intro he
        obtain rfl : b = 0x0F := by simpa using he
        exact nomatch (lookupForm_escape c).symm.trans hrow
      exact (if_neg hesc).trans ((takeRow_iff c _ b _ rest i).2 ⟨f, o, hrow, hmakes, rfl⟩)

/-! ## Every instruction is an item of its row (R126–R128) -/

/-- An item from the row that its opcode selects. -/
theorem Item.of_row {c : Ctx} {i : Instr} (two : Bool) (b : Byte) (o : Operands) {row : OpRow}
    (hrow : (opcodeRows c two)[opcodeIndex two b]? = some row) (hmakes : (row.form b).Makes c i o) :
    Item c i (opcodePrefix two ++ b :: o.bytes) :=
  ⟨two, b, o, row.form b, rfl, by rw [lookupForm_eq, hrow]; rfl, hmakes⟩

theorem bySize_s16 (c : Ctx) (i16 i32 : Instr) (h : (c.os == .s16) = true) : bySize c i16 i32 = i16 := by
  rw [bySize, eq_of_beq h]

theorem bySize_s32 (c : Ctx) (i16 i32 : Instr) (h : (c.os == .s32) = true) : bySize c i16 i32 = i32 := by
  rw [bySize, eq_of_beq h]

/-- The encoding of a well-formed instruction is that of an item. -/
theorem item_encode (c : Ctx) (i : Instr) (h : WellFormed c i = true) : Item c i (encode i) := by
  cases i with
  | popEs | popSs | popDs | pushEs | pushCs | pushSs | pushDs | retNear | retFar | sahf | stc | std | sti
  | scasb | stosb | repPfx | repnePfx | wait | xlatb | opSizePfx | addrSizePfx | csPfx | ssPfx | dsPfx
  | esPfx | fsPfx | gsPfx | lockPfx =>
    exact .of_row false _ .none rfl rfl
  | popFs | popGs | pushFs | pushGs => exact .of_row true _ .none rfl rfl
  | popR r | pushR r | xchgAccR r => cases r <;> exact .of_row false _ .none rfl rfl
  | popa | popf | pusha | pushf | scasw | stosw => exact .of_row false _ .none rfl (bySize_s16 c _ _ h)
  | popad | popfd | pushad | pushfd | scasd | stosd => exact .of_row false _ .none rfl (bySize_s32 c _ _ h)
  | popRm rm => exact .of_row false _ (.rm .n0 rm) rfl ⟨h, _, rfl, rfl⟩
  | pushRm rm => exact .of_row false _ (.rm .n6 rm) rfl ⟨h, _, rfl, rfl⟩
  | pushImm v => exact .of_row false _ (.imm v) rfl ⟨(v.fits_iff _ _).1 h, rfl⟩
  | pushImm8 v => exact .of_row false _ (.byte v) rfl rfl
  | retNearImm v | retFarImm v => exact .of_row false _ (.word v) rfl rfl
  | rol1 w rm | rolCl w rm => cases w <;> exact .of_row false _ (.rm .n0 rm) rfl ⟨h, _, rfl, rfl⟩
  | rolImm w rm v => cases w <;> exact .of_row false _ (.rmByte .n0 rm v) rfl ⟨h, _, rfl, rfl⟩
  | ror1 w rm | rorCl w rm => cases w <;> exact .of_row false _ (.rm .n1 rm) rfl ⟨h, _, rfl, rfl⟩
  | rorImm w rm v => cases w <;> exact .of_row false _ (.rmByte .n1 rm v) rfl ⟨h, _, rfl, rfl⟩
  | rcl1 w rm | rclCl w rm => cases w <;> exact .of_row false _ (.rm .n2 rm) rfl ⟨h, _, rfl, rfl⟩
  | rclImm w rm v => cases w <;> exact .of_row false _ (.rmByte .n2 rm v) rfl ⟨h, _, rfl, rfl⟩
  | rcr1 w rm | rcrCl w rm => cases w <;> exact .of_row false _ (.rm .n3 rm) rfl ⟨h, _, rfl, rfl⟩
  | rcrImm w rm v => cases w <;> exact .of_row false _ (.rmByte .n3 rm v) rfl ⟨h, _, rfl, rfl⟩
  | shl1 w rm | shlCl w rm => cases w <;> exact .of_row false _ (.rm .n4 rm) rfl ⟨h, _, rfl, rfl⟩
  | shlImm w rm v => cases w <;> exact .of_row false _ (.rmByte .n4 rm v) rfl ⟨h, _, rfl, rfl⟩
  | shr1 w rm | shrCl w rm => cases w <;> exact .of_row false _ (.rm .n5 rm) rfl ⟨h, _, rfl, rfl⟩
  | shrImm w rm v => cases w <;> exact .of_row false _ (.rmByte .n5 rm v) rfl ⟨h, _, rfl, rfl⟩
  | sar1 w rm | sarCl w rm => cases w <;> exact .of_row false _ (.rm .n7 rm) rfl ⟨h, _, rfl, rfl⟩
  | sarImm w rm v => cases w <;> exact .of_row false _ (.rmByte .n7 rm v) rfl ⟨h, _, rfl, rfl⟩
  | shldImm rm r v | shrdImm rm r v => exact .of_row true _ (.rmByte r rm v) rfl ⟨h, _, rfl, rfl⟩
  | shldCl rm r | shrdCl rm r => exact .of_row true _ (.rm r rm) rfl ⟨h, _, rfl, rfl⟩
  | seto rm | setno rm | setb rm | setnb rm | sete rm | setne rm | setbe rm | setnbe rm | sets rm | setns rm
  | setp rm | setnp rm | setl rm | setnl rm | setle rm | setnle rm | sgdt rm | sldt rm =>
    exact .of_row true _ (.rm .n0 rm) rfl ⟨h, _, rfl, rfl⟩
  | sidt rm | str rm => exact .of_row true _ (.rm .n1 rm) rfl ⟨h, _, rfl, rfl⟩
  | smsw rm | verr rm => exact .of_row true _ (.rm .n4 rm) rfl ⟨h, _, rfl, rfl⟩
  | verw rm => exact .of_row true _ (.rm .n5 rm) rfl ⟨h, _, rfl, rfl⟩
  | sbbRmR w rm r | subRmR w rm r | xorRmR w rm r | testRmR w rm r | xchgRmR w rm r | sbbRRm w r rm
  | subRRm w r rm | xorRRm w r rm =>
    cases w <;> exact .of_row false _ (.rm r rm) rfl ⟨h, _, rfl, rfl⟩
  | sbbRmImm s w rm v =>
    obtain ⟨hrm, himm⟩ := Bool.and_eq_true_iff.1 h
    have hsize := (v.fits_iff _ _).1 himm
    cases s <;> cases w <;> exact .of_row false _ (.rmImm .n3 rm v) rfl ⟨hrm, hsize, _, rfl, rfl⟩
  | subRmImm s w rm v =>
    obtain ⟨hrm, himm⟩ := Bool.and_eq_true_iff.1 h
    have hsize := (v.fits_iff _ _).1 himm
    cases s <;> cases w <;> exact .of_row false _ (.rmImm .n5 rm v) rfl ⟨hrm, hsize, _, rfl, rfl⟩
  | xorRmImm s w rm v =>
    obtain ⟨hrm, himm⟩ := Bool.and_eq_true_iff.1 h
    have hsize := (v.fits_iff _ _).1 himm
    cases s <;> cases w <;> exact .of_row false _ (.rmImm .n6 rm v) rfl ⟨hrm, hsize, _, rfl, rfl⟩
  | testRmImm w rm v =>
    obtain ⟨hrm, himm⟩ := Bool.and_eq_true_iff.1 h
    have hsize := (v.fits_iff _ _).1 himm
    cases w <;> exact .of_row false _ (.rmImm .n0 rm v) rfl ⟨hrm, hsize, _, rfl, rfl⟩
  | sbbAccImm w v | subAccImm w v | xorAccImm w v | testAccImm w v =>
    have hsize := (v.fits_iff _ _).1 h
    cases w <;> exact .of_row false _ (.imm v) rfl ⟨hsize, rfl⟩

/-! ## Every row makes well-formed instructions of their own bytes (R126–R131) -/

/-- What a row makes of operands it admits is well formed, and encoded by the opcode and those operands. -/
def OpRow.Sound (c : Ctx) (two : Bool) (row : OpRow) : Prop :=
  ∀ b o i, row.hits b = true → (row.form b).Makes c i o →
    WellFormed c i = true ∧ encode i = opcodePrefix two ++ b :: o.bytes

section
variable {c : Ctx} {two : Bool} {pat mask : Byte}

theorem OpRow.Sound.plain {j : Byte → Instr}
    (h : ∀ b, (b &&& mask == pat) = true → WellFormed c (j b) = true ∧ encode (j b) = opcodePrefix two ++ [b]) :
    OpRow.Sound c two ⟨pat, mask, fun b => .plain (j b)⟩ := by
  intro b o i hb hmakes
  cases o with
  | none => cases hmakes; exact h b hb
  | _ => exact hmakes.elim

theorem OpRow.Sound.modrm {f : Byte → RegNum → Option (RM → Instr)}
    (h : ∀ b reg g x, (b &&& mask == pat) = true → f b reg = some g → x.wf c.as = true →
      WellFormed c (g x) = true ∧ encode (g x) = opcodePrefix two ++ b :: x.encode reg) :
    OpRow.Sound c two ⟨pat, mask, fun b => .modrm (f b)⟩ := by
  intro b o i hb hmakes
  cases o with
  | rm reg x =>
    obtain ⟨hwf, g, hg, rfl⟩ := hmakes
    exact h b reg g x hb hg hwf
  | _ => exact hmakes.elim

theorem OpRow.Sound.modrmI8 {f : Byte → RegNum → Option (RM → Byte → Instr)}
    (h : ∀ b reg g x v, (b &&& mask == pat) = true → f b reg = some g → x.wf c.as = true →
      WellFormed c (g x v) = true ∧ encode (g x v) = opcodePrefix two ++ b :: (x.encode reg ++ [v])) :
    OpRow.Sound c two ⟨pat, mask, fun b => .modrmI8 (f b)⟩ := by
  intro b o i hb hmakes
  cases o with
  | rmByte reg x v =>
    obtain ⟨hwf, g, hg, rfl⟩ := hmakes
    exact h b reg g x v hb hg hwf
  | _ => exact hmakes.elim

theorem OpRow.Sound.modrmImm {k : Byte → ImmSize} {f : Byte → RegNum → Option (RM → Imm → Instr)}
    (h : ∀ b reg g x v, (b &&& mask == pat) = true → f b reg = some g → x.wf c.as = true → v.size = k b →
      WellFormed c (g x v) = true ∧ encode (g x v) = opcodePrefix two ++ b :: (x.encode reg ++ v.bytes)) :
    OpRow.Sound c two ⟨pat, mask, fun b => .modrmImm (k b) (f b)⟩ := by
  intro b o i hb hmakes
  cases o with
  | rmImm reg x v =>
    obtain ⟨hwf, hk, g, hg, rfl⟩ := hmakes
    exact h b reg g x v hb hg hwf hk
  | _ => exact hmakes.elim

theorem OpRow.Sound.imm8 {f : Byte → Byte → Instr}
    (h : ∀ b v, (b &&& mask == pat) = true →
      WellFormed c (f b v) = true ∧ encode (f b v) = opcodePrefix two ++ [b, v]) :
    OpRow.Sound c two ⟨pat, mask, fun b => .imm8 (f b)⟩ := by
  intro b o i hb hmakes
  cases o with
  | byte v => cases hmakes; exact h b v hb
  | _ => exact hmakes.elim

theorem OpRow.Sound.imm16 {f : Byte → BitVec 16 → Instr}
    (h : ∀ b v, (b &&& mask == pat) = true →
      WellFormed c (f b v) = true ∧ encode (f b v) = opcodePrefix two ++ b :: bytes16 v) :
    OpRow.Sound c two ⟨pat, mask, fun b => .imm16 (f b)⟩ := by
  intro b o i hb hmakes
  cases o with
  | word v => cases hmakes; exact h b v hb
  | _ => exact hmakes.elim

theorem OpRow.Sound.imm {k : Byte → ImmSize} {f : Byte → Imm → Instr}
    (h : ∀ b v, (b &&& mask == pat) = true → v.size = k b →
      WellFormed c (f b v) = true ∧ encode (f b v) = opcodePrefix two ++ b :: v.bytes) :
    OpRow.Sound c two ⟨pat, mask, fun b => .imm (k b) (f b)⟩ := by
  intro b o i hb hmakes
  cases o with
  | imm v =>
    obtain ⟨hk, rfl⟩ := hmakes
    exact h b v hb hk
  | _ => exact hmakes.elim

end

/-! ## The bits of an opcode byte (R118, R119, R121) -/

/-- A row of a full mask matches its pattern alone. -/
theorem eq_of_hits {b pat : Byte} (h : (b &&& 0xFF == pat) = true) : b = pat := by
  have full : b &&& 0xFF = b := BitVec.and_allOnes
  rw [← eq_of_beq h, full]

theorem opW_of_hits {b pat : Byte} (h : (b &&& 0xFE == pat) = true) : opW pat (bitW b) = b := by
  have all : ∀ b : Byte, opW (b &&& 0xFE) (bitW b) = b := by decide
  rw [← eq_of_beq h, all]

theorem opReg_of_hits {b pat : Byte} (h : (b &&& 0xF8 == pat) = true) : opReg pat (RegNum.ofBits (fieldRm b)) = b := by
  have all : ∀ b : Byte, opReg (b &&& 0xF8) (RegNum.ofBits (fieldRm b)) = b := by decide
  rw [← eq_of_beq h, all]

theorem opSW_of_hits {b : Byte} (h : (b &&& 0xFC == 0x80) = true) : opSW (bitS b) (bitW b) = b := by
  have all : ∀ b : Byte, b &&& 0xFC = 0x80 → opSW (bitS b) (bitW b) = b := by decide
  exact all b (eq_of_beq h)

/-! ## Rows of one shape -/

section
variable {c : Ctx} {two : Bool} {pat : Byte}

/-- A row of one byte without operands. -/
theorem OpRow.Sound.byte {j : Instr} (hwf : WellFormed c j = true) (henc : encode j = opcodePrefix two ++ [pat]) :
    OpRow.Sound c two ⟨pat, 0xFF, fun _ => .plain j⟩ :=
  .plain fun b hb => ⟨hwf, by rw [eq_of_hits hb, henc]⟩

/-- A row of one byte whose instruction depends on the operand size (R134). -/
theorem OpRow.Sound.sized {i16 i32 : Instr} (hwf16 : c.os = .s16 → WellFormed c i16 = true)
    (hwf32 : c.os = .s32 → WellFormed c i32 = true) (henc16 : encode i16 = opcodePrefix two ++ [pat])
    (henc32 : encode i32 = opcodePrefix two ++ [pat]) :
    OpRow.Sound c two ⟨pat, 0xFF, fun _ => .plain (bySize c i16 i32)⟩ := by
  unfold bySize
  cases h : c.os with
  | s16 => exact .byte (hwf16 h) henc16
  | s32 => exact .byte (hwf32 h) henc32

/-- A short form with a register number in the opcode (R118). -/
theorem OpRow.Sound.reg {j : RegNum → Instr} (hwf : ∀ r, WellFormed c (j r) = true)
    (henc : ∀ r, encode (j r) = opcodePrefix two ++ [opReg pat r]) :
    OpRow.Sound c two ⟨pat, 0xF8, fun b => .plain (j (RegNum.ofBits (fieldRm b)))⟩ :=
  .plain fun b hb => ⟨hwf _, by rw [henc, opReg_of_hits hb]⟩

/-- A ModRM form whose `reg` field is the extension `n` (R117). -/
theorem OpRow.Sound.extension {n : RegNum} {j : RM → Instr} (hwf : ∀ x : RM, x.wf c.as = true → WellFormed c (j x) = true)
    (henc : ∀ x, encode (j x) = opcodePrefix two ++ pat :: x.encode n) :
    OpRow.Sound c two ⟨pat, 0xFF, fun _ => .modrm (only n j)⟩ :=
  .modrm fun b reg g x hb hg hx => by
    obtain ⟨rfl, rfl⟩ : reg = n ∧ j = g := by simpa [only] using hg
    exact ⟨hwf x hx, by rw [henc, eq_of_hits hb]⟩

/-- A ModRM form with a register operand and the bit `w` (R119). -/
theorem OpRow.Sound.w_rm {j : Bool → RegNum → RM → Instr}
    (hwf : ∀ w r, ∀ x : RM, x.wf c.as = true → WellFormed c (j w r x) = true)
    (henc : ∀ w r x, encode (j w r x) = opcodePrefix two ++ opW pat w :: x.encode r) :
    OpRow.Sound c two ⟨pat, 0xFE, fun b => .modrm fun r => some (j (bitW b) r)⟩ :=
  .modrm fun b reg g x hb hg hx => by
    obtain rfl := Option.some.inj hg
    exact ⟨hwf _ _ x hx, by rw [henc, opW_of_hits hb]⟩

/-- The same with the register operand as the source. -/
theorem OpRow.Sound.w_rmR {j : Bool → RM → RegNum → Instr}
    (hwf : ∀ w (x : RM) r, x.wf c.as = true → WellFormed c (j w x r) = true)
    (henc : ∀ w x r, encode (j w x r) = opcodePrefix two ++ opW pat w :: x.encode r) :
    OpRow.Sound c two ⟨pat, 0xFE, fun b => .modrm fun r => some fun x => j (bitW b) x r⟩ :=
  .w_rm (j := fun w r x => j w x r) (fun w r x => hwf w x r) fun w r x => henc w x r

/-- A ModRM form with a register operand. -/
theorem OpRow.Sound.rm {j : RegNum → RM → Instr}
    (hwf : ∀ r, ∀ x : RM, x.wf c.as = true → WellFormed c (j r x) = true)
    (henc : ∀ r x, encode (j r x) = opcodePrefix two ++ pat :: x.encode r) :
    OpRow.Sound c two ⟨pat, 0xFF, fun _ => .modrm fun r => some (j r)⟩ :=
  .modrm fun b reg g x hb hg hx => by
    obtain rfl := Option.some.inj hg
    exact ⟨hwf _ x hx, by rw [henc, eq_of_hits hb]⟩

/-- The same with a count of one byte. -/
theorem OpRow.Sound.rmByte {j : RegNum → RM → Byte → Instr}
    (hwf : ∀ r, ∀ x : RM, x.wf c.as = true → ∀ v, WellFormed c (j r x v) = true)
    (henc : ∀ r x v, encode (j r x v) = opcodePrefix two ++ pat :: (x.encode r ++ [v])) :
    OpRow.Sound c two ⟨pat, 0xFF, fun _ => .modrmI8 fun r => some (j r)⟩ :=
  .modrmI8 fun b reg g x v hb hg hx => by
    obtain rfl := Option.some.inj hg
    exact ⟨hwf _ x hx v, by rw [henc, eq_of_hits hb]⟩

/-- The accumulator and an immediate, with the bit `w` (R121). -/
theorem OpRow.Sound.w_imm {j : Bool → Imm → Instr} (hwf : ∀ w v, WellFormed c (j w v) = v.fits w c.os)
    (henc : ∀ w v, encode (j w v) = opcodePrefix two ++ opW pat w :: v.bytes) :
    OpRow.Sound c two ⟨pat, 0xFE, fun b => .imm (immSize (bitW b) c.os) (j (bitW b))⟩ :=
  .imm fun b v hb hk => ⟨(hwf _ v).trans ((v.fits_iff _ _).2 hk), by rw [henc, opW_of_hits hb]⟩

end

/-! ## The rows one by one -/

section
variable (c : Ctx)

theorem rowsPfx_sound : ∀ row ∈ rowsPfx, row.Sound c false := by
  simp only [rowsPfx, List.forall_mem_cons]
  refine ⟨?_, ?_, ?_, ?_, ?_, ?_, ?_, ?_, ?_, ?_, ?_, List.forall_mem_nil _⟩ <;> exact .byte rfl rfl

theorem rowsStack_sound : ∀ row ∈ rowsStack c, row.Sound c false := by
  simp only [rowsStack, List.forall_mem_cons]
  exact ⟨.reg (fun _ => rfl) fun _ => rfl, .reg (fun _ => rfl) fun _ => rfl,
    .byte rfl rfl, .byte rfl rfl, .byte rfl rfl, .byte rfl rfl, .byte rfl rfl,
    .byte rfl rfl, .byte rfl rfl,
    .sized (fun h => by rw [WellFormed, h]; rfl) (fun h => by rw [WellFormed, h]; rfl) rfl rfl,
    .sized (fun h => by rw [WellFormed, h]; rfl) (fun h => by rw [WellFormed, h]; rfl) rfl rfl,
    .imm fun b v hb hk => ⟨(v.fits_iff _ _).2 hk, by rw [eq_of_hits hb]; rfl⟩,
    .imm8 fun b v hb => ⟨rfl, by rw [eq_of_hits hb]; rfl⟩,
    .extension (fun _ h => h) fun _ => rfl,
    .sized (fun h => by rw [WellFormed, h]; rfl) (fun h => by rw [WellFormed, h]; rfl) rfl rfl,
    .sized (fun h => by rw [WellFormed, h]; rfl) (fun h => by rw [WellFormed, h]; rfl) rfl rfl,
    .extension (fun _ h => h) fun _ => rfl, List.forall_mem_nil _⟩

/-- `100000sw`: SBB, SUB and XOR with an immediate. -/
theorem group80_sound :
    OpRow.Sound c false ⟨0x80, 0xFC, fun b => .modrmImm (immSize (!bitS b && bitW b) c.os) (group80 (bitS b) (bitW b))⟩ :=
  .modrmImm fun b reg g x v hb hg hx hk => by
    have hop := opSW_of_hits hb
    have hwf : (x.wf c.as && v.fitsSW (bitS b) (bitW b) c.os) = true :=
      Bool.and_eq_true_iff.2 ⟨hx, (v.fits_iff _ _).2 hk⟩
    cases reg <;> cases hg <;> exact ⟨hwf, congrArg (· :: (x.encode _ ++ v.bytes)) hop⟩

theorem rowsArith_sound : ∀ row ∈ rowsArith c, row.Sound c false := by
  simp only [rowsArith, List.forall_mem_cons]
  exact ⟨.w_rmR (fun _ _ _ h => h) fun _ _ _ => rfl, .w_rm (fun _ _ _ h => h) fun _ _ _ => rfl,
    .w_imm (fun _ _ => rfl) fun _ _ => rfl,
    .w_rmR (fun _ _ _ h => h) fun _ _ _ => rfl, .w_rm (fun _ _ _ h => h) fun _ _ _ => rfl,
    .w_imm (fun _ _ => rfl) fun _ _ => rfl,
    .w_rmR (fun _ _ _ h => h) fun _ _ _ => rfl, .w_rm (fun _ _ _ h => h) fun _ _ _ => rfl,
    .w_imm (fun _ _ => rfl) fun _ _ => rfl,
    group80_sound c,
    .w_rmR (fun _ _ _ h => h) fun _ _ _ => rfl, .w_rmR (fun _ _ _ h => h) fun _ _ _ => rfl,
    .reg (fun _ => rfl) fun _ => rfl,
    .w_imm (fun _ _ => rfl) fun _ _ => rfl,
    .modrmImm fun b reg g x v hb hg hx hk => by
      obtain ⟨rfl, rfl⟩ : reg = .n0 ∧ Instr.testRmImm (bitW b) = g := by simpa [only] using hg
      exact ⟨Bool.and_eq_true_iff.2 ⟨hx, (v.fits_iff _ _).2 hk⟩,
        congrArg (· :: (x.encode _ ++ v.bytes)) (opW_of_hits hb)⟩,
    List.forall_mem_nil _⟩

/-- A rotate or shift whose count needs no byte: the extension names the operation. -/
theorem groupD0_sound : OpRow.Sound c false ⟨0xD0, 0xFE, fun b => .modrm (groupD0 (bitW b))⟩ :=
  .modrm fun b reg g x hb hg hx => by
    have hop := opW_of_hits hb
    cases reg <;> cases hg <;> exact ⟨hx, congrArg (· :: x.encode _) hop⟩

theorem groupD2_sound : OpRow.Sound c false ⟨0xD2, 0xFE, fun b => .modrm (groupD2 (bitW b))⟩ :=
  .modrm fun b reg g x hb hg hx => by
    have hop := opW_of_hits hb
    cases reg <;> cases hg <;> exact ⟨hx, congrArg (· :: x.encode _) hop⟩

theorem groupC0_sound : OpRow.Sound c false ⟨0xC0, 0xFE, fun b => .modrmI8 (groupC0 (bitW b))⟩ :=
  .modrmI8 fun b reg g x v hb hg hx => by
    have hop := opW_of_hits hb
    cases reg <;> cases hg <;> exact ⟨hx, congrArg (· :: (x.encode _ ++ [v])) hop⟩

theorem rowsOther_sound : ∀ row ∈ rowsOther c, row.Sound c false := by
  simp only [rowsOther, List.forall_mem_cons]
  exact ⟨.byte rfl rfl, .byte rfl rfl, .byte rfl rfl,
    .sized (fun h => by rw [WellFormed, h]; rfl) (fun h => by rw [WellFormed, h]; rfl) rfl rfl,
    .byte rfl rfl,
    .sized (fun h => by rw [WellFormed, h]; rfl) (fun h => by rw [WellFormed, h]; rfl) rfl rfl,
    groupC0_sound c,
    .imm16 fun b v hb => ⟨rfl, by rw [eq_of_hits hb]; rfl⟩, .byte rfl rfl,
    .imm16 fun b v hb => ⟨rfl, by rw [eq_of_hits hb]; rfl⟩, .byte rfl rfl,
    groupD0_sound c, groupD2_sound c,
    .byte rfl rfl, .byte rfl rfl, .byte rfl rfl, .byte rfl rfl, List.forall_mem_nil _⟩

/-- `0F 00 /n` and `0F 01 /n`: the extension names the instruction. -/
theorem group0F00_sound : OpRow.Sound c true ⟨0x00, 0xFF, fun _ => .modrm group0F00⟩ :=
  .modrm fun b reg g x hb hg hx => by
    obtain rfl := eq_of_hits hb
    cases reg <;> cases hg <;> exact ⟨hx, rfl⟩

theorem group0F01_sound : OpRow.Sound c true ⟨0x01, 0xFF, fun _ => .modrm group0F01⟩ :=
  .modrm fun b reg g x hb hg hx => by
    obtain rfl := eq_of_hits hb
    cases reg <;> cases hg <;> exact ⟨hx, rfl⟩

theorem rows2_sound : ∀ row ∈ rows2, row.Sound c true := by
  simp only [rows2, List.forall_mem_cons]
  refine ⟨group0F00_sound c, group0F01_sound c, ?_, ?_, ?_, ?_, ?_, ?_, ?_, ?_, ?_, ?_, ?_, ?_, ?_, ?_, ?_, ?_,
    .byte rfl rfl, .byte rfl rfl, .byte rfl rfl, .byte rfl rfl,
    .rmByte (fun _ _ h _ => h) fun _ _ _ => rfl, .rm (fun _ _ h => h) fun _ _ => rfl,
    .rmByte (fun _ _ h _ => h) fun _ _ _ => rfl, .rm (fun _ _ h => h) fun _ _ => rfl,
    List.forall_mem_nil _⟩ <;> exact .extension (fun _ h => h) fun _ => rfl

theorem opcodeRows_sound (two : Bool) : ∀ row ∈ opcodeRows c two, row.Sound c two := by
  cases two with
  | true => exact rows2_sound c
  | false =>
    intro row hrow
    rw [opcodeRows, if_neg (by decide), rows1, List.mem_append, List.mem_append, List.mem_append] at hrow
    obtain ((hpfx | hstack) | harith) | hother := hrow
    · exact rowsPfx_sound c row hpfx
    · exact rowsStack_sound c row hstack
    · exact rowsArith_sound c row harith
    · exact rowsOther_sound c row hother

/-- The bytes of an item are the encoding of its instruction, which is well formed. -/
theorem Item.eq_encode {i : Instr} {bs : List Byte} (h : Item c i bs) : WellFormed c i = true ∧ bs = encode i := by
  obtain ⟨two, b, o, f, rfl, hrow, hmakes⟩ := h
  obtain ⟨row, hfind, rfl⟩ := Option.map_eq_some_iff.1 hrow
  obtain ⟨hwf, henc⟩ := opcodeRows_sound c two row (List.mem_of_find?_eq_some hfind) b o i
    (List.find?_some (p := fun r : OpRow => r.hits b) hfind) hmakes
  exact ⟨hwf, henc.symm⟩

end

/-- Decoding answers exactly where the bytes are the encoding of a well-formed instruction and the rest. -/
theorem decodeItem_iff_encode (c : Ctx) (bs rest : List Byte) (i : Instr) :
    decodeItem c bs = .ok (i, rest) ↔ WellFormed c i = true ∧ bs = encode i ++ rest := by
  rw [decodeItem_iff]
  constructor
  · rintro ⟨item, hitem, rfl⟩
    obtain ⟨hwf, rfl⟩ := hitem.eq_encode
    exact ⟨hwf, rfl⟩
  · rintro ⟨hwf, rfl⟩
    exact ⟨encode i, item_encode c i hwf, rfl⟩

/-! ## The statements of the family -/

/-- Settles O2: the encoding of a well-formed instruction is that of an item, and decoding answers the items. -/
theorem decodeOfEncode : Obligations.DecodeOfEncode := by
  unfold Obligations.DecodeOfEncode
  intro c i rest hwf
  exact (decodeItem_iff_encode c _ rest i).2 ⟨hwf, rfl⟩

/-- Settles O3: each row of the opcode map makes well-formed instructions of their own bytes. -/
theorem encodeOfDecode : Obligations.EncodeOfDecode := by
  unfold Obligations.EncodeOfDecode
  intro c bs rest i h
  exact (decodeItem_iff_encode c bs rest i).1 h

/-- Settles O1: each word is evaluated. -/
theorem sampleWordsDecode : Obligations.SampleWordsDecode := by
  unfold Obligations.SampleWordsDecode
  decide

end Sys2Proof
end

section
/-! Every instruction by its shape: one meaning for the instructions that differ in operand form, width or count alone; where
EIP goes and what is left of the inhibit when a shape answers; what can stop a shape; what a step can do. -/

namespace Sys2Proof.Machine

/-! ## Shapes -/

/-- The instructions that are no prefix, those of one meaning together. -/
inductive Shape where
  | popReg (r : RegNum)
  | popMem (m : Mem)
  | popSeg (r : SReg)
  | popAll (w : Width)
  | popFlags (w : Width)
  | push (f : PushForm)
  | pushAll (w : Width)
  | pushFlags (w : Width)
  | shift (op : ShiftOp) (k : Count) (w : Bool) (rm : RM)
  | double (left : Bool) (count : Option Byte) (rm : RM) (g : RegNum)
  | retNear (imm : Nat)
  | retFar (imm : Nat)
  | sahf
  | sets (x : Flag)
  | sti
  | setcc (c : Cond) (rm : RM)
  | sub (borrow w : Bool) (f : ArithForm)
  | xor (w : Bool) (f : ArithForm)
  | test (w : Bool) (f : TestForm)
  | scas (w : Width)
  | stos (w : Width)
  | table (idt : Bool) (rm : RM)
  | smsw (rm : RM)
  | protWord (task : Bool) (rm : RM)
  | verify (write : Bool) (rm : RM)
  | wait
  | xchg (w : Bool) (rm : RM) (r : RegNum)
  | xlatb

/-- The shape of an instruction; a prefix has none. -/
def shapeOf : Instr → Option Shape
  | .popRm (.reg r) | .popR r => some (.popReg r)
  | .popRm (.mem m) => some (.popMem m)
  | .popEs => some (.popSeg .es)
  | .popSs => some (.popSeg .ss)
  | .popDs => some (.popSeg .ds)
  | .popFs => some (.popSeg .fs)
  | .popGs => some (.popSeg .gs)
  | .popa => some (.popAll .word)
  | .popad => some (.popAll .dword)
  | .popf => some (.popFlags .word)
  | .popfd => some (.popFlags .dword)
  | .pushRm rm => some (.push (.ofRm rm))
  | .pushR r => some (.push (.ofReg r))
  | .pushFs => some (.push (.ofSeg .fs))
  | .pushGs => some (.push (.ofSeg .gs))
  | .pushEs => some (.push (.ofSeg .es))
  | .pushCs => some (.push (.ofSeg .cs))
  | .pushSs => some (.push (.ofSeg .ss))
  | .pushDs => some (.push (.ofSeg .ds))
  | .pushImm v => some (.push (.ofImm v))
  | .pushImm8 v => some (.push (.ofImm8 v))
  | .pusha => some (.pushAll .word)
  | .pushad => some (.pushAll .dword)
  | .pushf => some (.pushFlags .word)
  | .pushfd => some (.pushFlags .dword)
  | .rol1 w rm => some (.shift .rol .one w rm)
  | .rolCl w rm => some (.shift .rol .cl w rm)
  | .rolImm w rm n => some (.shift .rol (.imm n) w rm)
  | .ror1 w rm => some (.shift .ror .one w rm)
  | .rorCl w rm => some (.shift .ror .cl w rm)
  | .rorImm w rm n => some (.shift .ror (.imm n) w rm)
  | .rcl1 w rm => some (.shift .rcl .one w rm)
  | .rclCl w rm => some (.shift .rcl .cl w rm)
  | .rclImm w rm n => some (.shift .rcl (.imm n) w rm)
  | .rcr1 w rm => some (.shift .rcr .one w rm)
  | .rcrCl w rm => some (.shift .rcr .cl w rm)
  | .rcrImm w rm n => some (.shift .rcr (.imm n) w rm)
  | .shl1 w rm => some (.shift .shl .one w rm)
  | .shlCl w rm => some (.shift .shl .cl w rm)
  | .shlImm w rm n => some (.shift .shl (.imm n) w rm)
  | .shr1 w rm => some (.shift .shr .one w rm)
  | .shrCl w rm => some (.shift .shr .cl w rm)
  | .shrImm w rm n => some (.shift .shr (.imm n) w rm)
  | .sar1 w rm => some (.shift .sar .one w rm)
  | .sarCl w rm => some (.shift .sar .cl w rm)
  | .sarImm w rm n => some (.shift .sar (.imm n) w rm)
  | .shldImm rm r n => some (.double true (some n) rm r)
  | .shldCl rm r => some (.double true none rm r)
  | .shrdImm rm r n => some (.double false (some n) rm r)
  | .shrdCl rm r => some (.double false none rm r)
  | .retNear => some (.retNear 0)
  | .retNearImm m => some (.retNear m.toNat)
  | .retFar => some (.retFar 0)
  | .retFarImm m => some (.retFar m.toNat)
  | .sahf => some .sahf
  | .seto rm => some (.setcc .o rm)
  | .setno rm => some (.setcc .no rm)
  | .setb rm => some (.setcc .b rm)
  | .setnb rm => some (.setcc .nb rm)
  | .sete rm => some (.setcc .e rm)
  | .setne rm => some (.setcc .ne rm)
  | .setbe rm => some (.setcc .be rm)
  | .setnbe rm => some (.setcc .nbe rm)
  | .sets rm => some (.setcc .s rm)
  | .setns rm => some (.setcc .ns rm)
  | .setp rm => some (.setcc .p rm)
  | .setnp rm => some (.setcc .np rm)
  | .setl rm => some (.setcc .l rm)
  | .setnl rm => some (.setcc .nl rm)
  | .setle rm => some (.setcc .le rm)
  | .setnle rm => some (.setcc .nle rm)
  | .stc => some (.sets .cf)
  | .std => some (.sets .df)
  | .sti => some .sti
  | .sbbRmR w rm r => some (.sub true w (.rmR rm r))
  | .sbbRRm w r rm => some (.sub true w (.rRm r rm))
  | .sbbRmImm s w rm v => some (.sub true w (.rmImm s rm v))
  | .sbbAccImm w v => some (.sub true w (.acc v))
  | .testRmR w rm r => some (.test w (.rmR rm r))
  | .testRmImm w rm v => some (.test w (.rmImm rm v))
  | .testAccImm w v => some (.test w (.acc v))
  | .subRmR w rm r => some (.sub false w (.rmR rm r))
  | .subRRm w r rm => some (.sub false w (.rRm r rm))
  | .subRmImm s w rm v => some (.sub false w (.rmImm s rm v))
  | .subAccImm w v => some (.sub false w (.acc v))
  | .xorRmR w rm r => some (.xor w (.rmR rm r))
  | .xorRRm w r rm => some (.xor w (.rRm r rm))
  | .xorRmImm s w rm v => some (.xor w (.rmImm s rm v))
  | .xorAccImm w v => some (.xor w (.acc v))
  | .scasb => some (.scas .byte)
  | .scasw => some (.scas .word)
  | .scasd => some (.scas .dword)
  | .stosb => some (.stos .byte)
  | .stosw => some (.stos .word)
  | .stosd => some (.stos .dword)
  | .sgdt rm => some (.table false rm)
  | .sidt rm => some (.table true rm)
  | .sldt rm => some (.protWord false rm)
  | .smsw rm => some (.smsw rm)
  | .str rm => some (.protWord true rm)
  | .verr rm => some (.verify false rm)
  | .verw rm => some (.verify true rm)
  | .wait => some .wait
  | .xchgRmR w rm r => some (.xchg w rm r)
  | .xchgAccR r => some (.xchg true (.reg accNum) r)
  | .xlatb => some .xlatb
  | .repPfx | .repnePfx | .opSizePfx | .addrSizePfx | .csPfx | .ssPfx | .dsPfx | .esPfx | .fsPfx | .gsPfx | .lockPfx => none

/-- The image PUSHF and PUSHFD store. -/
def State.flagsImage (s : State) : (w : Width) → BitVec w.bits
  | .dword => s.pushfdImage
  | w => s.eflags.setWidth w.bits

/-- POP of a segment register, with the inhibit that POP SS sets (40_stack R154). -/
def popSegment (r : SReg) (s : State) : Res State := do
  let t ← popSeg r s
  return if r = .ss then { t with inhibit := true } else t

/-- The meaning of a shape. -/
def meaningOf : Shape → State → Res State
  | .popReg r, s => popReg s.os.width r s
  | .popMem m, s => popMem s.os.width m s
  | .popSeg r, s => popSegment r s
  | .popAll w, s => popAll w s
  | .popFlags w, s => popFlags w s
  | .push f, s => f.item s >>= fun v => pushValue s.os.width v s
  | .pushAll w, s => pushAll w s
  | .pushFlags w, s => pushFlags w (s.flagsImage w) s
  | .shift op k w rm, s => shiftRm op w rm (k.raw s) s
  | .double left count rm g, s => doubleRm left rm g (count.getD s.cl) s
  | .retNear imm, s => retNearBy imm s
  | .retFar imm, s => retFarBy imm s
  | .sahf, s => .ok (s.setEflags (sahfFlags s.eflags (s.reg .byte .n4))).advance
  | .sets x, s => .ok (s.setEflags (setFlag s.eflags x true)).advance
  | .sti, s => enableInterrupts s
  | .setcc c rm, s => setCond c rm s
  | .sub borrow w f, s => f.meaning (opWidth w s.os) (subOp (borrow && flag s.eflags .cf)) s
  | .xor w f, s => f.meaning (opWidth w s.os) (xorOp s.draws) s
  | .test w f, s => testRm (opWidth w s.os) f.left (f.right s _) s
  | .scas w, s => repeated (scasOne w) scasEnds s
  | .stos w, s => repeated (stosOne w) stosEnds s
  | .table idt rm, s => storeTable (if idt then s.idtr else s.gdtr) rm s
  | .smsw rm, s => storeWord (s.cr0.setWidth 16) rm s
  | .protWord task rm, s => s.needProt >>= fun _ => storeWord (if task then s.tr else s.ldtr.selector) rm s
  | .verify write rm, s => verifyRm (if write then State.writable else State.readable) rm s
  | .wait, s => waitStep s
  | .xchg w rm r, s => exchange (opWidth w s.os) rm r s
  | .xlatb, s => translate s

/-- POP of a segment register other than SS sets no inhibit. -/
theorem popSegment_of_ne_ss (r : SReg) (s : State) (hr : r ≠ .ss) : popSegment r s = popSeg r s := by
  simp [popSegment, hr]

/-- An instruction does what its shape does. -/
theorem exec_shape (i : Instr) (k : Shape) (s : State) (h : shapeOf i = some k) : exec i s = conclude s (meaningOf k s) := by
  cases i with
  | popRm rm => cases rm <;> cases h <;> rfl
  | popEs | popDs | popFs | popGs => cases h; exact congrArg (conclude s) (popSegment_of_ne_ss _ s (by decide)).symm
  | sbbRmR w rm r => cases h; exact exec_subtraction s true w (.rmR rm r)
  | sbbRRm w r rm => cases h; exact exec_subtraction s true w (.rRm r rm)
  | sbbRmImm x w rm v => cases h; exact exec_subtraction s true w (.rmImm x rm v)
  | sbbAccImm w v => cases h; exact exec_subtraction s true w (.acc v)
  | subRmR w rm r => cases h; exact exec_subtraction s false w (.rmR rm r)
  | subRRm w r rm => cases h; exact exec_subtraction s false w (.rRm r rm)
  | subRmImm x w rm v => cases h; exact exec_subtraction s false w (.rmImm x rm v)
  | subAccImm w v => cases h; exact exec_subtraction s false w (.acc v)
  | _ => cases h <;> rfl

/-- Every instruction that is no prefix has a shape. -/
theorem shapeOf_isSome (i : Instr) (h : isPfx i = false) : ∃ k, shapeOf i = some k := by
  cases i with
  | popRm rm => cases rm <;> exact ⟨_, rfl⟩
  | repPfx | repnePfx | opSizePfx | addrSizePfx | csPfx | ssPfx | dsPfx | esPfx | fsPfx | gsPfx | lockPfx => cases h
  | _ => exact ⟨_, rfl⟩

/-! ## Where EIP goes (10_state R27, R52) -/

/-- What a shape leaves of EIP, of the inhibit and of the decoding when it answers: it has completed, or holds or goes on, or
was a control transfer. -/
inductive Ends (s : State) (k : Shape) (t : State) : Prop
  | completes (hcur : t.cur = Cur.idle) (heip : t.eip = s.cur.next)
      (hinhibit : t.inhibit = true → k = .sti ∨ k = .popSeg .ss)
  | stays (hcur : t.cur = Cur.idle) (heip : t.eip = s.eip) (hinhibit : t.inhibit = s.inhibit)
      (hwhy : k = .wait ∧ s.pins.busy = true ∨ s.cur.rep ≠ none ∧ ∃ w, k = .scas w ∨ k = .stos w)
  | jumps (hcur : t.cur = Cur.idle) (hinhibit : t.inhibit = false) (hret : ∃ imm, k = .retNear imm ∨ k = .retFar imm)

/-- A shape that advances from a state in which `next` is known has completed. -/
theorem Ends.advance {s : State} {k : Shape} (u : State) (h : u.cur = s.cur) : Ends s k u.advance :=
  .completes rfl (congrArg Cur.next h) fun hset => nomatch hset

theorem State.memWrite_cur {s t : State} {seg : SReg} {off : Nat} {w : Width} {v : BitVec w.bits}
    (h : s.memWrite seg off w v = .ok t) : t.cur = s.cur := by
  obtain ⟨ps, _, rfl⟩ := (s.memWrite_ok t seg off w v).1 h
  exact s.pokes_cur _ _

theorem State.push_cur {s t : State} {w : Width} {v : BitVec w.bits} (h : s.push w v = .ok t) : t.cur = s.cur := by
  obtain ⟨_, ps, _, rfl⟩ := (s.push_ok t w v).1 h
  exact s.pokes_cur _ _

theorem State.rmWrite_cur {s t : State} {w : Width} {rm : RM} {v : BitVec w.bits} (h : s.rmWrite w rm v = .ok t) :
    t.cur = s.cur := by
  obtain ⟨r, _, rfl⟩ | ⟨m, ps, _, _, rfl⟩ := s.rmWrite_ok t w rm v h
  · rfl
  · exact s.pokes_cur _ _

theorem State.rmModify_cur {s t : State} {w : Width} {rm : RM} {f : BitVec w.bits → BitVec w.bits × State}
    (hf : ∀ a, (f a).2.cur = s.cur) (h : s.rmModify w rm f = .ok t) : t.cur = s.cur := by
  obtain ⟨r, _, rfl⟩ | ⟨m, ws, rs, _, _, rfl⟩ := s.rmModify_ok t w rm f h
  · exact hf _
  · rw [State.pokes_cur, hf]

theorem State.popToReg_cur (s : State) (w : Width) (r : RegNum) (v : BitVec w.bits) : (s.popToReg w r v).cur = s.cur := by
  unfold State.popToReg
  split
  · split <;> rfl
  · rfl

theorem pushValue_ends {s t : State} {k : Shape} {w : Width} {v : BitVec w.bits} (h : pushValue w v s = .ok t) :
    Ends s k t := by
  simp only [pushValue, Res.bind_ok, Res.pure_ok] at h
  obtain ⟨u, hpush, rfl⟩ := h
  exact .advance u (State.push_cur hpush)

theorem pushAll_ends {s t : State} {k : Shape} {w : Width} (h : pushAll w s = .ok t) : Ends s k t := by
  simp only [pushAll, Res.bind_ok, Res.pure_ok] at h
  obtain ⟨_, h1, _, h2, _, h3, _, h4, _, h5, _, h6, _, h7, u, h8, rfl⟩ := h
  exact .advance u ((State.push_cur h8).trans ((State.push_cur h7).trans ((State.push_cur h6).trans
    ((State.push_cur h5).trans ((State.push_cur h4).trans ((State.push_cur h3).trans ((State.push_cur h2).trans
    (State.push_cur h1))))))))

theorem ArithForm.meaning_ends {s t : State} {k : Shape} {f : ArithForm} {n : Width}
    {op : BitVec n.bits → BitVec n.bits → BitVec n.bits × Status} (h : f.meaning n op s = .ok t) : Ends s k t := by
  simp only [ArithForm.meaning, Res.bind_ok, Res.pure_ok] at h
  obtain ⟨_, _, u, hmodify, rfl⟩ := h
  exact .advance u (State.rmModify_cur (fun _ => rfl) hmodify)

theorem storeWord_ends {s t : State} {k : Shape} {v : Word} {rm : RM} (h : storeWord v rm s = .ok t) : Ends s k t := by
  cases rm with
  | reg r =>
    simp only [storeWord] at h
    split at h <;> cases h <;> exact .advance _ rfl
  | mem m =>
    simp only [storeWord, Res.bind_ok, Res.pure_ok] at h
    obtain ⟨u, hwrite, rfl⟩ := h
    exact .advance u (State.memWrite_cur hwrite)

/-- A repeated string instruction completes, or goes on where it carries a prefix. -/
theorem repeated_ends {s t : State} {k : Shape} {one : State → Res State} {ends : Rep → State → Bool}
    (hk : ∃ w, k = .scas w ∨ k = .stos w)
    (hone : ∀ u, one s = .ok u → u.cur = s.cur ∧ u.eip = s.eip ∧ u.inhibit = s.inhibit)
    (h : repeated one ends s = .ok t) : Ends s k t := by
  unfold repeated at h
  split at h
  · simp only [Res.bind_ok, Res.pure_ok] at h
    obtain ⟨u, hu, rfl⟩ := h
    exact .advance u (hone u hu).1
  next r hrep =>
    split at h
    · cases h; exact .advance s rfl
    · simp only [Res.bind_ok, Res.pure_ok] at h
      obtain ⟨u, hu, rfl⟩ := h
      obtain ⟨hcur, heip, hinhibit⟩ := hone u hu
      split
      · exact .advance u.countDown hcur
      · exact .stays rfl heip hinhibit (.inr ⟨by simp [hrep], hk⟩)

theorem scasOne_keeps {s u : State} {w : Width} (h : scasOne w s = .ok u) :
    u.cur = s.cur ∧ u.eip = s.eip ∧ u.inhibit = s.inhibit := by
  simp only [scasOne, Res.bind_ok, Res.pure_ok] at h
  obtain ⟨b, _, rfl⟩ := h
  exact ⟨rfl, rfl, rfl⟩

theorem stosOne_keeps {s u : State} {w : Width} (h : stosOne w s = .ok u) :
    u.cur = s.cur ∧ u.eip = s.eip ∧ u.inhibit = s.inhibit := by
  simp only [stosOne, Res.bind_ok, Res.pure_ok, State.memWrite_ok] at h
  obtain ⟨_, ⟨ps, _, rfl⟩, rfl⟩ := h
  exact ⟨s.pokes_cur _ _, s.pokes_eip _ _, s.pokes_inhibit _ _⟩

theorem retFarBy_ends {s t : State} {imm : Nat} (h : retFarBy imm s = .ok t) : Ends s (.retFar imm) t := by
  have ret : ∃ n, Shape.retFar imm = .retNear n ∨ Shape.retFar imm = .retFar n := ⟨imm, .inr rfl⟩
  unfold retFarBy at h
  split at h
  · simp only [retFarProt, Res.bind_ok] at h
    obtain ⟨_, _, _, _, _, _, h⟩ := h
    split at h
    · simp only [retSameLevel, Res.bind_ok, Res.pure_ok] at h
      obtain ⟨_, _, _, _, _, _, rfl⟩ := h
      exact .jumps rfl rfl ret
    · simp only [retOuterLevel, Res.bind_ok, Res.pure_ok] at h
      obtain ⟨_, _, _, _, _, _, _, _, _, _, _, _, _, _, rfl⟩ := h
      exact .jumps rfl rfl ret
  · simp only [retFarReal, Res.bind_ok, Res.pure_ok] at h
    obtain ⟨_, _, _, _, _, _, rfl⟩ := h
    exact .jumps rfl rfl ret

/-- Every shape that answers ends in one of the three ways. -/
theorem meaningOf_ends (s t : State) (k : Shape) (h : meaningOf k s = .ok t) : Ends s k t := by
  cases k with
  | popReg r =>
    simp only [meaningOf, popReg, Res.bind_ok, Res.pure_ok] at h
    obtain ⟨v, _, rfl⟩ := h
    exact .advance _ (s.popToReg_cur _ r v)
  | popMem m =>
    simp only [meaningOf, popMem, Res.bind_ok, Res.pure_ok] at h
    obtain ⟨v, _, u, hwrite, rfl⟩ := h
    exact .advance u (State.memWrite_cur (s := s.release _) hwrite)
  | popSeg r =>
    simp only [meaningOf, popSegment, popSeg, Res.bind_ok, Res.pure_ok] at h
    obtain ⟨_, ⟨v, _, g, _, rfl⟩, rfl⟩ := h
    split
    next hr => exact .completes rfl rfl fun _ => .inr (by rw [hr])
    · exact .advance _ rfl
  | popAll w =>
    simp only [meaningOf, popAll, Res.bind_ok, Res.pure_ok] at h
    obtain ⟨_, _, _, _, _, _, _, _, _, _, _, _, _, _, _, _, _, _, rfl⟩ := h
    exact .advance _ rfl
  | popFlags w =>
    simp only [meaningOf, popFlags, State.pop, Res.bind_ok, Res.pure_ok] at h
    obtain ⟨_, _, _, ⟨_, _, rfl⟩, _, _, rfl⟩ := h
    exact .advance _ rfl
  | push f =>
    obtain ⟨v, _, hpush⟩ := Res.bind_ok.1 h
    exact pushValue_ends hpush
  | pushAll w => exact pushAll_ends h
  | pushFlags w =>
    obtain ⟨_, _, hpush⟩ := Res.bind_ok.1 h
    exact pushValue_ends hpush
  | shift op c w rm =>
    simp only [meaningOf, shiftRm, Res.bind_ok, Res.pure_ok] at h
    obtain ⟨u, hmodify, rfl⟩ := h
    exact .advance u (State.rmModify_cur (fun _ => rfl) hmodify)
  | double left count rm g =>
    simp only [meaningOf, doubleRm, Res.bind_ok, Res.pure_ok] at h
    obtain ⟨u, hmodify, rfl⟩ := h
    exact .advance u (State.rmModify_cur (fun _ => rfl) hmodify)
  | retNear imm =>
    simp only [meaningOf, retNearBy, Res.bind_ok, Res.pure_ok] at h
    obtain ⟨_, _, _, _, rfl⟩ := h
    exact .jumps rfl rfl ⟨imm, .inl rfl⟩
  | retFar imm => exact retFarBy_ends h
  | sahf => cases h; exact .advance _ rfl
  | sets x => cases h; exact .advance _ rfl
  | sti =>
    simp only [meaningOf, enableInterrupts, Res.bind_ok, Res.pure_ok] at h
    obtain ⟨_, _, rfl⟩ := h
    exact .completes rfl rfl fun _ => .inl rfl
  | setcc c rm =>
    simp only [meaningOf, setCond, Res.bind_ok, Res.pure_ok] at h
    obtain ⟨u, hwrite, rfl⟩ := h
    exact .advance u (State.rmWrite_cur hwrite)
  | sub borrow w f => exact ArithForm.meaning_ends h
  | xor w f => exact ArithForm.meaning_ends h
  | test w f =>
    simp only [meaningOf, testRm, Res.bind_ok, Res.pure_ok] at h
    obtain ⟨_, _, rfl⟩ := h
    exact .advance _ rfl
  | scas w => exact repeated_ends ⟨w, .inl rfl⟩ (fun _ => scasOne_keeps) h
  | stos w => exact repeated_ends ⟨w, .inr rfl⟩ (fun _ => stosOne_keeps) h
  | table idt rm =>
    cases rm with
    | reg r => cases h
    | mem m =>
      simp only [meaningOf, storeTable, Res.bind_ok, Res.pure_ok] at h
      obtain ⟨ps, _, rfl⟩ := h
      exact .advance _ (s.pokes_cur _ _)
  | smsw rm => exact storeWord_ends h
  | protWord task rm =>
    obtain ⟨_, _, hstore⟩ := Res.bind_ok.1 h
    exact storeWord_ends hstore
  | verify write rm =>
    simp only [meaningOf, verifyRm, Res.bind_ok, Res.pure_ok] at h
    obtain ⟨_, _, _, _, _, _, rfl⟩ := h
    exact .advance _ rfl
  | wait =>
    simp only [meaningOf, waitStep] at h
    split at h
    · cases h
    · split at h
      · cases h
      · split at h
        next hbusy => cases h; exact .stays rfl rfl rfl (.inl ⟨rfl, hbusy⟩)
        · cases h; exact .advance _ s.commitStores_cur
  | xchg w rm r =>
    cases rm with
    | reg x => cases h; exact .advance _ rfl
    | mem m =>
      simp only [meaningOf, exchange, Res.bind_ok, Res.pure_ok] at h
      obtain ⟨⟨ws, rs⟩, _, rfl⟩ := h
      exact .advance _ (State.exchangeBytes_cur _ _ _)
  | xlatb =>
    simp only [meaningOf, translate, Res.bind_ok, Res.pure_ok] at h
    obtain ⟨_, _, rfl⟩ := h
    exact .advance _ rfl

/-- Every instruction that is no prefix and answers ends in one of the three ways. -/
theorem exec_ends (s t : State) (i : Instr) (h : exec i s = .next t) (hi : isPfx i = false) :
    ∃ k, shapeOf i = some k ∧ Ends s k t := by
  obtain ⟨k, hk⟩ := shapeOf_isSome i hi
  rw [exec_shape i k s hk, conclude_next] at h
  exact ⟨k, hk, meaningOf_ends s t k h⟩

end Sys2Proof.Machine
end

section
/-! What can stop an operation, a shape, the fetch and so a step: the exceptions with their codes, the page faults with the entry
of the table that gives them, Shutdown, the refusals; and what a step can do. -/

namespace Sys2Proof.Machine

/-! ## The stops (60_exceptions R401–R404) -/

/-- What a computation in state `s` can stop with: an exception with a code of clear low bits, one without a code, a page fault
of the paging table or of a descriptor, a refusal; and Shutdown where `low` holds. -/
inductive CanStop (s : State) (low : Prop) : Stop → Prop
  | coded (x : Exc) (c : Word) (hx : x = .np ∨ x = .ss ∨ x = .gp) (hc : c &&& 3 = 0) : CanStop s low (.exc x (some c) none)
  | bare (x : Exc) (hx : x = .ud ∨ x = .nm ∨ x = .mf) : CanStop s low (.exc x none none)
  | page (c : Word) (lin : Dword) (write : Bool) (hon : s.paging = true) (hfault : s.walkFaults lin write c) :
      CanStop s low (.exc .pf (some c) (some lin))
  | descriptor (c : Word) (lin : Dword) (sel : Word) (hprot : s.mode = .prot) (hdesc : s.desc sel = some (.pageFault c lin)) :
      CanStop s low (.exc .pf (some c) (some lin))
  | shutdown (hlow : low) : CanStop s low .shutdown
  | refusal (r : Refusal) : CanStop s low (.refuse r)

/-- What stops a computation depends on what the checks read, and on the descriptors. -/
theorem CanStop.congr {s t : State} {low : Prop} {e : Stop} (same : SameChecks s t) (hdescs : t.descs = s.descs)
    (h : CanStop t low e) : CanStop s low e := by
  have hdesc : ∀ sel, t.desc sel = s.desc sel := fun sel => by unfold State.desc; rw [hdescs]
  have hpaging : t.paging = s.paging := by unfold State.paging; rw [same.mode, same.cr0]
  cases h with
  | coded x c hx hc => exact .coded x c hx hc
  | bare x hx => exact .bare x hx
  | page c lin w hon hfault =>
    obtain ⟨e, ⟨b, a, hpages, hspeaks, hbefore⟩, hanswer⟩ := hfault
    rw [same.cpl] at hspeaks hbefore
    exact .page c lin w (hpaging ▸ hon) ⟨e, ⟨b, a, same.pages ▸ hpages, hspeaks, hbefore⟩, hanswer⟩
  | descriptor c lin sel hprot hfault => exact .descriptor c lin sel (same.mode ▸ hprot) (hdesc sel ▸ hfault)
  | shutdown hlow => exact .shutdown hlow
  | refusal r => exact .refusal r

/-- A selector as an error code has its low bits clear (R403). -/
theorem selCode_and_three (sel : Word) : selCode sel &&& 3 = 0 := by
  rw [selCode, BitVec.and_assoc, show (0xFFFC &&& 3 : Word) = 0#16 by decide, BitVec.and_zero]; rfl

section
variable {s : State} {low : Prop} {e : Stop}

/-- A check that raises a selector's code. -/
theorem CanStop.ofSelector {x : Exc} {sel : Word} (hx : x = .np ∨ x = .ss ∨ x = .gp)
    (h : (raise x (selCode sel) : Res Unit) = .error e) : CanStop s low e := by
  cases h
  exact .coded x _ hx (selCode_and_three sel)

/-- A check that raises the code 0. -/
theorem CanStop.ofZero {x : Exc} (hx : x = .np ∨ x = .ss ∨ x = .gp) (h : (raise x 0 : Res Unit) = .error e) :
    CanStop s low e := by
  cases h
  exact .coded x 0 hx (by decide)

/-! ## The stops of an access (20_memory R74–R86) -/

theorem limitExc_coded (seg : SReg) : limitExc seg = .np ∨ limitExc seg = .ss ∨ limitExc seg = .gp := by
  cases seg <;> simp [limitExc]

theorem CanStop.of_segCheck {seg : SReg} {off n : Nat} {k : Access} (h : s.segCheck seg off n k = .error e) :
    CanStop s low e := by
  unfold State.segCheck at h
  simp only at h
  split at h
  · split at h
    · exact .ofZero (by simp) h
    · split at h
      · exact .ofSelector (by simp) h
      · split at h
        · exact .ofSelector (by simp) h
        · split at h
          · exact .ofZero (by simp) h
          · split at h
            · exact .ofZero (by simp) h
            · split at h
              · exact .ofZero (limitExc_coded seg) h
              · cases h
  · split at h
    · exact .ofZero (limitExc_coded seg) h
    · cases h

theorem CanStop.of_pageWalk {lin : Dword} {write : Bool} (h : s.pageWalk lin write = .error e) : CanStop s low e := by
  by_cases hon : s.paging = true
  · obtain ⟨c, hfault, rfl⟩ := (s.pageWalk_error_iff lin write e hon).1 h
    exact .page c lin write hon hfault
  · rw [s.pageWalk_off lin write (by simpa using hon)] at h
    cases h

theorem CanStop.of_walk {seg : SReg} {off n : Nat} {write : Bool} (h : s.walk seg off write n = .error e) :
    CanStop s low e := by
  induction n generalizing off with
  | zero => cases h
  | succ n ih =>
    simp only [State.walk, Res.bind_error, Res.pure_error] at h
    obtain h | ⟨_, _, h | ⟨_, _, h⟩⟩ := h
    · exact .of_pageWalk h
    · exact ih h
    · exact h.elim

theorem CanStop.of_populatedAt {a : Nat} (h : s.populatedAt a = .error e) : CanStop s low e := by
  unfold State.populatedAt at h
  split at h
  · cases h; exact .refusal _
  · split at h
    · cases h
    · cases h; exact .refusal _

theorem CanStop.of_allPopulated {ps : List Nat} (h : s.allPopulated ps = .error e) : CanStop s low e := by
  induction ps with
  | nil => cases h
  | cons p ps ih =>
    obtain h | ⟨_, _, h⟩ := Res.bind_error.1 h
    · exact .of_populatedAt h
    · exact ih h

theorem CanStop.of_access {seg : SReg} {off n : Nat} {k : Access} (h : s.access seg off n k = .error e) :
    CanStop s low e := by
  simp only [State.access, Res.bind_error, Res.pure_error] at h
  obtain h | ⟨_, _, h | ⟨_, _, h | ⟨_, _, h⟩⟩⟩ := h
  · exact .of_segCheck h
  · exact .of_walk h
  · exact .of_allPopulated h
  · exact h.elim

theorem CanStop.of_accessRmw {seg : SReg} {off n : Nat} (h : s.accessRmw seg off n = .error e) : CanStop s low e := by
  simp only [State.accessRmw, Res.bind_error, Res.pure_error] at h
  obtain h | ⟨_, _, h | ⟨_, _, h | ⟨_, _, h | ⟨_, _, h | ⟨_, _, h⟩⟩⟩⟩⟩ := h
  · exact .of_segCheck h
  · exact .of_walk h
  · exact .of_walk h
  · exact .of_allPopulated h
  · exact .of_allPopulated h
  · exact h.elim

/-- A read stops exactly where its access does. -/
theorem State.memRead_error {seg : SReg} {off : Nat} {w : Width} :
    s.memRead seg off w = .error e ↔ s.access seg off w.bytes .read = .error e := by
  simp only [State.memRead, Res.bind_error, Res.pure_error, and_false, exists_false, or_false]

/-- A write stops exactly where its access does. -/
theorem State.memWrite_error {seg : SReg} {off : Nat} {w : Width} {v : BitVec w.bits} :
    s.memWrite seg off w v = .error e ↔ s.access seg off w.bytes .write = .error e := by
  simp only [State.memWrite, State.memWriteBytes, valueBytes_length, Res.bind_error, Res.pure_error, and_false, exists_false,
    or_false]

theorem CanStop.of_memRead {seg : SReg} {off : Nat} {w : Width} (h : s.memRead seg off w = .error e) : CanStop s low e :=
  .of_access (State.memRead_error.1 h)

theorem CanStop.of_stackRead {d : Nat} {w : Width} (h : s.stackRead d w = .error e) : CanStop s low e := .of_memRead h

theorem CanStop.of_memWrite {seg : SReg} {off : Nat} {w : Width} {v : BitVec w.bits} (h : s.memWrite seg off w v = .error e) :
    CanStop s low e := .of_access (State.memWrite_error.1 h)

theorem CanStop.of_rmRead {w : Width} {rm : RM} (h : s.rmRead w rm = .error e) : CanStop s low e := by
  cases rm with
  | reg r => cases h
  | mem m => exact .of_memRead h

theorem CanStop.of_rmWrite {w : Width} {rm : RM} {v : BitVec w.bits} (h : s.rmWrite w rm v = .error e) : CanStop s low e := by
  cases rm with
  | reg r => cases h
  | mem m => exact .of_memWrite h

/-- An r/m operand is modified exactly where it may be. -/
theorem State.rmModify_error {w : Width} {rm : RM} {f : BitVec w.bits → BitVec w.bits × State} :
    s.rmModify w rm f = .error e ↔ s.target w rm = .error e := by
  cases rm with
  | reg r => simp [State.rmModify, State.target]
  | mem m => simp only [State.rmModify, State.target, Res.bind_error, Res.pure_error, and_false, exists_false, or_false]

theorem CanStop.of_rmModify {w : Width} {rm : RM} {f : BitVec w.bits → BitVec w.bits × State}
    (h : s.rmModify w rm f = .error e) : CanStop s low e := by
  have h := State.rmModify_error.1 h
  cases rm with
  | reg r => cases h
  | mem m =>
    simp only [State.target, Res.bind_error, Res.pure_error] at h
    obtain h | ⟨_, _, h⟩ := h
    · exact .of_accessRmw h
    · exact h.elim

/-! ## The stops of descriptors and segment registers (40_stack R155, 42_ret R238–R239) -/

theorem CanStop.of_descOrGp {sel : Word} (hprot : s.mode = .prot) (h : s.descOrGp sel = .error e) : CanStop s low e := by
  unfold State.descOrGp at h
  split at h
  · cases h; exact .coded .gp _ (by simp) (selCode_and_three sel)
  next c lin hdesc => cases h; exact .descriptor c lin sel hprot hdesc
  · cases h

theorem CanStop.of_loadSeg {r : SReg} {sel : Word} (h : s.loadSeg r sel = .error e) : CanStop s low e := by
  unfold State.loadSeg at h
  split at h
  next hprot =>
    split at h
    · simp only [State.loadSsProt, Res.bind_error, stopIf_error, Res.pure_error] at h
      obtain ⟨_, h⟩ | ⟨_, _, ⟨_, h⟩ | ⟨_, _, h | ⟨_, _, ⟨_, h⟩ | ⟨_, _, ⟨_, h⟩ | ⟨_, _, h⟩⟩⟩⟩⟩ := h
      · exact .ofZero (by simp) h
      · exact .ofSelector (by simp) h
      · exact .of_descOrGp hprot h
      · exact .ofSelector (by simp) h
      · exact .ofSelector (by simp) h
      · exact h.elim
    · unfold State.loadDataProt at h
      split at h
      · cases h
      · simp only [State.loadDataFound, Res.bind_error, stopIf_error, Res.pure_error] at h
        obtain h | ⟨_, _, ⟨_, h⟩ | ⟨_, _, ⟨_, h⟩ | ⟨_, _, h⟩⟩⟩ := h
        · exact .of_descOrGp hprot h
        · exact .ofSelector (by simp) h
        · exact .ofSelector (by simp) h
        · exact h.elim
  · cases h

theorem CanStop.of_returnCode {sel : Word} (hprot : s.mode = .prot) (h : s.returnCode sel = .error e) : CanStop s low e := by
  simp only [State.returnCode, Res.bind_error, stopIf_error, Res.pure_error] at h
  obtain ⟨_, h⟩ | ⟨_, _, h | ⟨_, _, ⟨_, h⟩ | ⟨_, _, ⟨_, h⟩ | ⟨_, _, ⟨_, h⟩ | ⟨_, _, ⟨_, h⟩ | ⟨_, _, h⟩⟩⟩⟩⟩⟩ := h
  · exact .ofZero (by simp) h
  · exact .of_descOrGp hprot h
  · exact .ofSelector (by simp) h
  · exact .ofSelector (by simp) h
  · exact .ofSelector (by simp) h
  · exact .ofSelector (by simp) h
  · exact h.elim

theorem CanStop.of_returnStack {ssel : Word} {level : BitVec 2} (hprot : s.mode = .prot)
    (h : s.returnStack ssel level = .error e) : CanStop s low e := by
  simp only [State.returnStack, Res.bind_error, stopIf_error, Res.pure_error] at h
  obtain ⟨_, h⟩ | ⟨_, _, h | ⟨_, _, ⟨_, h⟩ | ⟨_, _, ⟨_, h⟩ | ⟨_, _, ⟨_, h⟩ | ⟨_, _, ⟨_, h⟩ | ⟨_, _, h⟩⟩⟩⟩⟩⟩ := h
  · exact .ofZero (by simp) h
  · exact .of_descOrGp hprot h
  · exact .ofSelector (by simp) h
  · exact .ofSelector (by simp) h
  · exact .ofSelector (by simp) h
  · exact .ofSelector (by simp) h
  · exact h.elim

end

/-! ## The pushes of one instruction, one after another (40_stack R171) -/

/-- The stack pointer moves in two steps as in one. -/
theorem State.spPlus_setSp (s : State) (a d : Dword) :
    (s.setSp s.stackSize (s.spPlus a)).spPlus d = s.spPlus (a + d) := by
  have hsize : (s.setSp s.stackSize (s.spPlus a)).stackSize = s.stackSize := rfl
  cases hs : s.stackSize with
  | s32 =>
    rw [hs] at hsize
    rw [State.spPlus_s32 _ _ hsize, s.spPlus_s32 _ hs, s.spPlus_s32 _ hs]
    exact BitVec.add_assoc _ _ _
  | s16 =>
    rw [hs] at hsize
    have low_add : (a + d).extractLsb' 0 16 = a.extractLsb' 0 16 + d.extractLsb' 0 16 := by
      simp only [← BitVec.setWidth_eq_extractLsb' (show 16 ≤ 32 by decide), BitVec.setWidth_add _ _ (show 16 ≤ 32 by decide)]
    have low_esp : (s.setSp .s16 (s.spPlus a)).regs.esp.extractLsb' 0 16 = (s.spPlus a).extractLsb' 0 16 := lowWord_low _ _
    rw [State.spPlus_s16 _ _ hsize, low_esp, s.spPlus_s16 _ hs, s.spPlus_s16 _ hs, low_add, ← BitVec.add_assoc,
      ← BitVec.setWidth_eq_extractLsb' (show 16 ≤ 32 by decide), BitVec.setWidth_setWidth_of_le _ (by decide),
      BitVec.setWidth_eq]

/-- A state inside an instruction that has pushed `n` items of width `w`: the checks are those of its beginning, the pointer is
below the items. -/
structure Pushed (s : State) (w : Width) (n : Nat) (u : State) : Prop where
  checks : SameChecks s u
  descs : u.descs = s.descs
  top : ∀ j, u.spPlus (- BitVec.ofNat 32 (w.bytes * j)) = s.spPlus (- BitVec.ofNat 32 (w.bytes * (n + j)))

theorem Pushed.none (s : State) (w : Width) : Pushed s w 0 s where
  checks := ⟨rfl, rfl, rfl, rfl, rfl⟩
  descs := rfl
  top j := by rw [Nat.zero_add]

/-- The pointer below one item more. -/
theorem Pushed.top_one {s u : State} {w : Width} {n : Nat} (h : Pushed s w n u) :
    u.spPlus (- BitVec.ofNat 32 w.bytes) = s.spPlus (- BitVec.ofNat 32 (w.bytes * (n + 1))) := by
  rw [← h.top 1, Nat.mul_one]

/-- One item more is pushed. -/
theorem Pushed.push {s u t : State} {w : Width} {n : Nat} {v : BitVec w.bits} (h : Pushed s w n u)
    (hpush : u.push w v = .ok t) : Pushed s w (n + 1) t := by
  obtain ⟨_, ps, _, rfl⟩ := (u.push_ok t w v).1 hpush
  have hsp : ∀ d, ((u.pokes ps (valueBytes w v)).setSp u.stackSize (u.spPlus (- BitVec.ofNat 32 w.bytes))).spPlus d =
      u.spPlus (- BitVec.ofNat 32 w.bytes + d) := fun d => by
    have hregs : ∀ a, (u.pokes ps (valueBytes w v)).spPlus a = u.spPlus a := fun a => by
      unfold State.spPlus; rw [State.stackSize_pokes, State.pokes_regs]
    rw [← hregs, ← u.stackSize_pokes ps (valueBytes w v), State.spPlus_setSp, hregs]
  have hmode : ((u.pokes ps (valueBytes w v)).setSp u.stackSize (u.spPlus (- BitVec.ofNat 32 w.bytes))).descs = s.descs := by
    rw [State.setSp_descs, State.pokes_descs, h.descs]
  exact {
    checks := ⟨by simp [h.checks.cr0], by simp [h.checks.vm], by simp [h.checks.segs], by simp [h.checks.pages],
      by simp [h.checks.populated]⟩
    descs := hmode
    top := fun j => by
      have sum : - BitVec.ofNat 32 w.bytes + - BitVec.ofNat 32 (w.bytes * j) = - BitVec.ofNat 32 (w.bytes * (1 + j)) := by
        rw [Nat.mul_add, Nat.mul_one, BitVec.ofNat_add]; ring
      rw [hsp, sum, h.top, Nat.add_assoc] }

/-- An item reaches past offset FFFFh exactly where the push of it is one of a low stack. -/
theorem Pushed.lowStack_iff {s u : State} {w : Width} {n : Nat} (h : Pushed s w n u) :
    u.lowStack (u.spPlus (- BitVec.ofNat 32 w.bytes)) w.bytes = true ↔ s.lowItem w (n + 1) := by
  rw [State.lowStack_iff, h.top_one, h.checks.mode, State.lowItem]

/-- A push of the next item stops where it ends in Shutdown, or where its access does. -/
theorem Pushed.push_error {s u : State} {w : Width} {n : Nat} {v : BitVec w.bits} {e : Stop} (h : Pushed s w n u) :
    u.push w v = .error e ↔ s.lowItem w (n + 1) ∧ e = .shutdown ∨ ¬s.lowItem w (n + 1) ∧
      s.access .ss (s.spPlus (- BitVec.ofNat 32 (w.bytes * (n + 1)))).toNat w.bytes .write = .error e := by
  have haccess : ∀ e, u.memWrite .ss (u.spPlus (- BitVec.ofNat 32 w.bytes)).toNat w v = .error e ↔
      s.access .ss (s.spPlus (- BitVec.ofNat 32 (w.bytes * (n + 1)))).toNat w.bytes .write = .error e := fun e => by
    rw [State.memWrite_error, h.top_one, h.checks.access]
  by_cases hlow : s.lowItem w (n + 1)
  · have hstop := (h.lowStack_iff).2 hlow
    have hpush : u.push w v = .error .shutdown := by
      simp only [State.push, hstop]
      rfl
    simp [hpush, hlow, eq_comm]
  · have hgo : u.lowStack (u.spPlus (- BitVec.ofNat 32 w.bytes)) w.bytes = false :=
      Bool.eq_false_iff.2 fun h' => hlow ((h.lowStack_iff).1 h')
    simp only [State.push, Res.bind_error, hgo, stopIf, Bool.false_eq_true, if_false, reduceCtorEq, false_or,
      haccess, exists_const, Res.pure_error, and_false, exists_false, or_false, hlow, false_and,
      not_false_eq_true, true_and]

/-- The items pushed one after another. -/
def State.pushItems (w : Width) : List (BitVec w.bits) → State → Res State
  | [], s => .ok s
  | v :: vs, s => do
    let t ← s.push w v
    State.pushItems w vs t

/-- The items of PUSHA and PUSHAD, in the order pushed (R171). -/
def State.allItems (s : State) (w : Width) : List (BitVec w.bits) :=
  [RegNum.n0, .n1, .n2, .n3, .n4, .n5, .n6, .n7].map (s.reg w)

theorem pushAll_eq (w : Width) (s : State) :
    pushAll w s = State.pushItems w (s.allItems w) s >>= fun t => pure t.advance := by
  simp only [pushAll, State.allItems, State.pushItems, List.map_cons, List.map_nil, bind_assoc]
  rfl

/-- Some item of a series stops it: those before it are pushed, and it stops as its own push does. -/
theorem pushItems_error {s u : State} {w : Width} {n : Nat} {vs : List (BitVec w.bits)} {e : Stop} (h : Pushed s w n u)
    (herror : State.pushItems w vs u = .error e) :
    ∃ j, n ≤ j ∧ j < n + vs.length ∧ (s.lowItem w (j + 1) ∧ e = .shutdown ∨ ¬s.lowItem w (j + 1) ∧
      s.access .ss (s.spPlus (- BitVec.ofNat 32 (w.bytes * (j + 1)))).toNat w.bytes .write = .error e) := by
  induction vs generalizing u n with
  | nil => cases herror
  | cons v vs ih =>
    obtain herror | ⟨t, hpush, herror⟩ := Res.bind_error.1 herror
    · exact ⟨n, Nat.le_refl n, by simp, h.push_error.1 herror⟩
    · obtain ⟨j, hle, hlt, hj⟩ := ih (h.push hpush) herror
      exact ⟨j, by omega, by rw [List.length_cons]; omega, hj⟩

end Sys2Proof.Machine
end

section
/-! What stops each shape, and so what a step can do: a refusal, an interrupt, a stop of the fetch or of the prefixes, or the
instruction itself. -/

namespace Sys2Proof.Machine

/-! ## The stops of a shape -/

/-- An item of a push reaches past offset FFFFh in real mode (40_stack R170). -/
def lowPush (s : State) : Shape → Prop
  | .push _ => s.lowItem s.os.width 1
  | .pushFlags w => s.lowItem w 1
  | .pushAll w => ∃ j, 1 ≤ j ∧ j ≤ 8 ∧ s.lowItem w j
  | _ => False

section
variable {s : State} {low : Prop} {e : Stop}

/-- A push stops in Shutdown, or where its access does. -/
theorem pushValue_error {w : Width} {v : BitVec w.bits} :
    pushValue w v s = .error e ↔ s.lowItem w 1 ∧ e = .shutdown ∨ ¬s.lowItem w 1 ∧
      s.access .ss (s.spPlus (- BitVec.ofNat 32 w.bytes)).toNat w.bytes .write = .error e := by
  have first := (Pushed.none s w).push_error (v := v) (e := e)
  rw [Nat.zero_add, Nat.mul_one] at first
  simp only [pushValue, Res.bind_error, Res.pure_error, and_false, exists_false, or_false, first]

theorem CanStop.of_pushValue {w : Width} {v : BitVec w.bits} (hlow : s.lowItem w 1 → low) (h : pushValue w v s = .error e) :
    CanStop s low e := by
  obtain ⟨hitem, rfl⟩ | ⟨_, haccess⟩ := pushValue_error.1 h
  · exact .shutdown (hlow hitem)
  · exact .of_access haccess

theorem CanStop.of_pushAll {w : Width} (hlow : (∃ j, 1 ≤ j ∧ j ≤ 8 ∧ s.lowItem w j) → low) (h : pushAll w s = .error e) :
    CanStop s low e := by
  simp only [pushAll_eq, Res.bind_error, Res.pure_error, and_false, exists_false, or_false] at h
  obtain ⟨j, _, hlt, ⟨hitem, rfl⟩ | ⟨_, haccess⟩⟩ := pushItems_error (.none s w) h
  · exact .shutdown (hlow ⟨j + 1, by omega, by simpa [State.allItems] using hlt, hitem⟩)
  · exact .of_access haccess

theorem CanStop.of_src {n : Width} {f : ArithForm} (h : f.src s n = .error e) : CanStop s low e := by
  cases f with
  | rRm r rm => exact .of_rmRead h
  | rmR rm r | rmImm x rm v | acc v => cases h

theorem CanStop.of_meaning {f : ArithForm} {n : Width} {op : BitVec n.bits → BitVec n.bits → BitVec n.bits × Status}
    (h : f.meaning n op s = .error e) : CanStop s low e := by
  simp only [ArithForm.meaning, Res.bind_error, Res.pure_error] at h
  obtain h | ⟨_, _, h | ⟨_, _, h⟩⟩ := h
  · exact .of_src h
  · exact .of_rmModify h
  · exact h.elim

theorem CanStop.of_storeWord {v : Word} {rm : RM} (h : storeWord v rm s = .error e) : CanStop s low e := by
  cases rm with
  | reg r =>
    simp only [storeWord] at h
    split at h <;> cases h
  | mem m =>
    simp only [storeWord, Res.bind_error, Res.pure_error, and_false, exists_false, or_false] at h
    exact .of_memWrite h

/-- A repeated string instruction stops where one iteration does. -/
theorem repeated_error {one : State → Res State} {ends : Rep → State → Bool} (h : repeated one ends s = .error e) :
    one s = .error e := by
  unfold repeated at h
  split at h
  · simpa only [Res.bind_error, Res.pure_error, and_false, exists_false, or_false] using h
  · split at h
    · cases h
    · simpa only [Res.bind_error, Res.pure_error, and_false, exists_false, or_false] using h

theorem CanStop.of_needProt (h : s.needProt = .error e) : CanStop s low e := by
  unfold State.needProt at h
  split at h
  · cases h
  · cases h; exact .bare .ud (by simp)

theorem CanStop.of_verifyRm {f : State → Word → Descriptor → Bool} {rm : RM} (h : verifyRm f rm s = .error e) :
    CanStop s low e := by
  simp only [verifyRm, Res.bind_error, Res.pure_error] at h
  obtain h | ⟨_, hprot, h | ⟨sel, _, h | ⟨_, _, h⟩⟩⟩ := h
  · exact .of_needProt h
  · exact .of_rmRead h
  · have hmode : s.mode = .prot := by
      unfold State.needProt at hprot
      split at hprot
      next hmode => exact hmode
      · cases hprot
    unfold State.verify at h
    split at h
    · cases h
    · split at h
      · cases h
      next c lin hdesc => cases h; exact .descriptor c lin sel hmode hdesc
      · cases h
  · exact h.elim

theorem CanStop.of_retFarBy {imm : Nat} (h : retFarBy imm s = .error e) : CanStop s low e := by
  unfold retFarBy at h
  split at h
  next hprot =>
    simp only [retFarProt, Res.bind_error, stopIf_error] at h
    obtain ⟨_, h⟩ | ⟨_, _, h | ⟨x, _, ⟨_, h⟩ | ⟨_, _, h⟩⟩⟩ := h
    · exact .ofZero (by simp) h
    · exact .of_stackRead h
    · exact .ofSelector (by simp) h
    · split at h
      · simp only [retSameLevel, Res.bind_error, stopIf_error, Res.pure_error] at h
        obtain h | ⟨_, _, h | ⟨_, _, ⟨_, h⟩ | ⟨_, _, h⟩⟩⟩ := h
        · exact .of_returnCode hprot h
        · exact .of_stackRead h
        · exact .ofZero (by simp) h
        · exact h.elim
      · simp only [retOuterLevel, Res.bind_error, stopIf_error, Res.pure_error] at h
        obtain ⟨_, h⟩ | ⟨_, _, h | ⟨_, _, h | ⟨_, _, h | ⟨_, _, h | ⟨_, _, h | ⟨_, _, ⟨_, h⟩ | ⟨_, _, h⟩⟩⟩⟩⟩⟩⟩ := h
        · exact .ofZero (by simp) h
        · exact .of_stackRead h
        · exact .of_stackRead h
        · exact .of_stackRead h
        · exact .of_returnCode hprot h
        · exact .of_returnStack hprot h
        · exact .ofZero (by simp) h
        · exact h.elim
  · simp only [retFarReal, Res.bind_error, stopIf_error, Res.pure_error] at h
    obtain h | ⟨_, _, h | ⟨_, _, ⟨_, h⟩ | ⟨_, _, h⟩⟩⟩ := h
    · exact .of_stackRead h
    · exact .of_stackRead h
    · exact .ofZero (by simp) h
    · exact h.elim

theorem CanStop.of_popAll {w : Width} (h : popAll w s = .error e) : CanStop s low e := by
  simp only [popAll, Res.bind_error, stopIf_error, Res.pure_error] at h
  obtain ⟨_, h⟩ | ⟨_, _, h | ⟨_, _, h | ⟨_, _, h | ⟨_, _, h | ⟨_, _, h | ⟨_, _, h | ⟨_, _, h | ⟨_, _, h | ⟨_, _, h⟩⟩⟩⟩⟩⟩⟩⟩⟩ := h
  · exact .ofZero (by simp) h
  iterate 8 exact .of_stackRead h
  exact h.elim

theorem CanStop.of_popMem {w : Width} {m : Mem} (h : popMem w m s = .error e) : CanStop s low e := by
  have same : SameChecks s (s.release w.bytes) := ⟨rfl, rfl, rfl, rfl, rfl⟩
  simp only [popMem, Res.bind_error, Res.pure_error] at h
  obtain h | ⟨_, _, h | ⟨_, _, h⟩⟩ := h
  · exact .of_stackRead h
  · exact (CanStop.of_memWrite h).congr same rfl
  · exact h.elim

end

/-- Every stop of a shape is of a kind the source names; a Shutdown is that of a push. -/
theorem meaningOf_stops (s : State) (k : Shape) (e : Stop) (h : meaningOf k s = .error e) : CanStop s (lowPush s k) e := by
  cases k with
  | popReg r =>
    simp only [meaningOf, popReg, Res.bind_error, Res.pure_error, and_false, exists_false, or_false] at h
    exact .of_stackRead h
  | popMem m => exact .of_popMem h
  | popSeg r =>
    simp only [meaningOf, popSegment, popSeg, Res.bind_error, Res.pure_error, and_false, exists_false, or_false] at h
    obtain h | ⟨_, _, h⟩ := h
    · exact .of_stackRead h
    · exact .of_loadSeg h
  | popAll w => exact .of_popAll h
  | popFlags w =>
    simp only [meaningOf, popFlags, State.pop, Res.bind_error, stopIf_error, Res.pure_error] at h
    obtain ⟨_, h⟩ | ⟨_, _, (h | ⟨_, _, h⟩) | ⟨_, _, ⟨_, h⟩ | ⟨_, _, h⟩⟩⟩ := h
    · exact .ofZero (by simp) h
    · exact .of_stackRead h
    · exact h.elim
    · cases h; exact .refusal _
    · exact h.elim
  | push f =>
    obtain h | ⟨v, _, h⟩ := Res.bind_error.1 h
    · cases f with
      | ofRm rm => exact .of_rmRead h
      | ofReg _ | ofSeg _ | ofImm _ | ofImm8 _ => cases h
    · exact .of_pushValue id h
  | pushAll w => exact .of_pushAll id h
  | pushFlags w =>
    obtain h | ⟨_, _, h⟩ := Res.bind_error.1 h
    · exact .ofZero (by simp) (stopIf_error.1 h).2
    · exact .of_pushValue id h
  | shift op c w rm =>
    simp only [meaningOf, shiftRm, Res.bind_error, Res.pure_error, and_false, exists_false, or_false] at h
    exact .of_rmModify h
  | double left count rm g =>
    simp only [meaningOf, doubleRm, Res.bind_error, Res.pure_error, and_false, exists_false, or_false] at h
    exact .of_rmModify h
  | retNear imm =>
    simp only [meaningOf, retNearBy, Res.bind_error, stopIf_error, Res.pure_error] at h
    obtain h | ⟨_, _, ⟨_, h⟩ | ⟨_, _, h⟩⟩ := h
    · exact .of_stackRead h
    · exact .ofZero (by simp) h
    · exact h.elim
  | retFar imm => exact .of_retFarBy h
  | sahf => cases h
  | sets x => cases h
  | sti =>
    simp only [meaningOf, enableInterrupts, Res.bind_error, stopIf_error, Res.pure_error, and_false, exists_false, or_false] at h
    exact .ofZero (by simp) h.2
  | setcc c rm =>
    simp only [meaningOf, setCond, Res.bind_error, Res.pure_error, and_false, exists_false, or_false] at h
    exact .of_rmWrite h
  | sub borrow w f => exact .of_meaning h
  | xor w f => exact .of_meaning h
  | test w f =>
    simp only [meaningOf, testRm, Res.bind_error, Res.pure_error, and_false, exists_false, or_false] at h
    exact .of_rmRead h
  | scas w =>
    have h := repeated_error h
    simp only [scasOne, Res.bind_error, Res.pure_error, and_false, exists_false, or_false] at h
    exact .of_memRead h
  | stos w =>
    have h := repeated_error h
    simp only [stosOne, Res.bind_error, Res.pure_error, and_false, exists_false, or_false] at h
    exact .of_memWrite h
  | table idt rm =>
    cases rm with
    | reg r => cases h; exact .bare .ud (by simp)
    | mem m =>
      simp only [meaningOf, storeTable, State.tableAccess, Res.bind_error, Res.pure_error, and_false, exists_false,
        or_false] at h
      obtain h | ⟨_, _, h⟩ := h
      · exact .of_access h
      · exact .of_access h
  | smsw rm => exact .of_storeWord h
  | protWord task rm =>
    obtain h | ⟨_, _, h⟩ := Res.bind_error.1 h
    · exact .of_needProt h
    · exact .of_storeWord h
  | verify write rm => exact .of_verifyRm h
  | wait =>
    simp only [meaningOf, waitStep] at h
    split at h
    · cases h; exact .bare .nm (by simp)
    · split at h
      · cases h; exact .bare .mf (by simp)
      · split at h <;> cases h
  | xchg w rm r =>
    cases rm with
    | reg x => cases h
    | mem m =>
      simp only [meaningOf, exchange, Res.bind_error, Res.pure_error, and_false, exists_false, or_false] at h
      exact .of_accessRmw h
  | xlatb =>
    simp only [meaningOf, translate, Res.bind_error, Res.pure_error, and_false, exists_false, or_false] at h
    exact .of_memRead h

/-! ## The stops of the fetch (60_exceptions R408) -/

section
variable {s : State} {low : Prop} {e : Stop}

theorem CanStop.of_codeByte {off : Nat} (h : s.codeByte off = .error e) : CanStop s low e := by
  simp only [State.codeByte, Res.bind_error, stopIf_error, Res.pure_error] at h
  obtain ⟨_, h⟩ | ⟨_, _, h | ⟨_, _, h | ⟨_, _, h⟩⟩⟩ := h
  · exact .ofZero (by simp) h
  · exact .of_pageWalk h
  · exact .of_populatedAt h
  · exact h.elim

theorem CanStop.of_codeBytes (off n : Nat) : CanStop s low (s.codeBytes off n).2 := by
  induction n generalizing off with
  | zero => exact .refusal _
  | succ n ih =>
    unfold State.codeBytes
    split
    next e h => exact .of_codeByte h
    · exact ih (off + 1)

theorem CanStop.of_fetchItem (h : s.fetchItem = .error e) : CanStop s low e := by
  simp only [State.fetchItem] at h
  split at h
  · cases h
  · cases h; exact .of_codeBytes _ _
  · cases h; exact .refusal _

theorem CanStop.of_prefixesFit {c : Cur} {i : Instr} (h : prefixesFit c i = .error e) : CanStop s low e := by
  unfold prefixesFit at h
  split at h
  · cases h; exact .refusal _
  · split at h
    · cases h; exact .refusal _
    · cases h

end

/-! ## What a step can do (00_scope R8) -/

/-- What is consumed of an instruction does not matter for a stop: the decoding is idle after it. -/
theorem stopped_withCur (s : State) (c : Cur) (e : Stop) : stopped { s with cur := c } e = stopped s e := by
  cases e <;> rfl

/-- A prefix byte is recorded, and nothing else changes. -/
theorem exec_prefix (i : Instr) (s : State) (h : isPfx i = true) : ∃ c, exec i s = .next { s with cur := c } := by
  cases i with
  | repPfx | repnePfx | opSizePfx | addrSizePfx | csPfx | ssPfx | dsPfx | esPfx | fsPfx | gsPfx | lockPfx => exact ⟨_, rfl⟩
  | _ => cases h

theorem sameChecks_withCur (s : State) (c : Cur) : SameChecks s { s with cur := c } := ⟨rfl, rfl, rfl, rfl, rfl⟩

/-- The items of an instruction end in a stop of the fetch or of its prefixes, or in the instruction they belong to. -/
theorem runItems_cases (fuel : Nat) (s : State) :
    (∃ e, CanStop s False e ∧ runItems fuel s = stopped s e) ∨
      ∃ i c, isPfx i = false ∧ runItems fuel s = exec i { s with cur := c } := by
  induction fuel generalizing s with
  | zero => exact .inl ⟨.refuse .tooLong, .refusal _, rfl⟩
  | succ fuel ih =>
    unfold runItems
    cases hfetch : s.fetchItem with
    | error e => exact .inl ⟨e, .of_fetchItem hfetch, rfl⟩
    | ok item =>
      obtain ⟨i, len⟩ := item
      cases hpfx : isPfx i with
      | true =>
        obtain ⟨c, hexec⟩ := exec_prefix i s hpfx
        simp only [hpfx, hexec, if_true]
        obtain ⟨e, hstop, hrun⟩ | ⟨j, d, hj, hrun⟩ := ih { s with cur := c }
        · exact .inl ⟨e, hstop.congr (sameChecks_withCur s c) rfl, by rw [hrun, stopped_withCur]⟩
        · exact .inr ⟨j, d, hj, hrun⟩
      | false =>
        simp only [hpfx, Bool.false_eq_true, if_false]
        cases hfit : prefixesFit s.cur i with
        | error e => exact .inl ⟨e, .of_prefixesFit hfit, rfl⟩
        | ok u => exact .inr ⟨i, _, hpfx, rfl⟩

/-- A step that completes is counted (log 22). -/
def counted : Host.Outcome State Fault Refusal → Host.Outcome State Fault Refusal
  | .next t => .next { t with draws := t.draws + 1 }
  | o => o

theorem stepSampled_eq (s : State) :
    stepSampled s = if flag s.eflags .tf then .refused .singleStep
      else if s.interrupted then .fault (.interrupt s.eip)
      else counted (runItems 16 { s with cur := Cur.idle }) := by
  unfold stepSampled counted
  rfl

@[simp] theorem counted_next (o : Host.Outcome State Fault Refusal) (t : State) :
    counted o = .next t ↔ ∃ u, o = .next u ∧ t = { u with draws := u.draws + 1 } := by
  cases o <;> simp [counted, eq_comm]

@[simp] theorem counted_fault (o : Host.Outcome State Fault Refusal) (f : Fault) : counted o = .fault f ↔ o = .fault f := by
  cases o <;> simp [counted]

/-- A step of a sampled state is refused for TF, takes an interrupt, ends in a stop of the fetch or of the prefixes, or runs an
instruction. -/
theorem stepSampled_cases (s : State) :
    flag s.eflags .tf = true ∧ stepSampled s = .refused .singleStep ∨
      flag s.eflags .tf = false ∧ s.interrupted = true ∧ stepSampled s = .fault (.interrupt s.eip) ∨
      (flag s.eflags .tf = false ∧ s.interrupted = false) ∧
        ((∃ e, CanStop s False e ∧ stepSampled s = stopped s e) ∨
          ∃ i c, isPfx i = false ∧ stepSampled s = counted (exec i { s with cur := c })) := by
  rw [stepSampled_eq]
  cases flag s.eflags .tf with
  | true => exact .inl ⟨rfl, rfl⟩
  | false =>
    cases s.interrupted with
    | true => exact .inr (.inl ⟨rfl, rfl, rfl⟩)
    | false =>
      refine .inr (.inr ⟨⟨rfl, rfl⟩, ?_⟩)
      simp only [Bool.false_eq_true, if_false]
      obtain ⟨e, hstop, hrun⟩ | ⟨i, c, hi, hrun⟩ := runItems_cases 16 { s with cur := Cur.idle }
      · refine .inl ⟨e, hstop.congr (sameChecks_withCur s Cur.idle) rfl, ?_⟩
        rw [hrun, stopped_withCur]
        cases e <;> rfl
      · exact .inr ⟨i, c, hi, congrArg counted hrun⟩

/-- What a step can do, in the state sampled. -/
theorem step_cases (s : State) :
    flag s.eflags .tf = true ∧ step s = .refused .singleStep ∨
      flag s.eflags .tf = false ∧ s.sample.interrupted = true ∧ step s = .fault (.interrupt s.eip) ∨
      (flag s.eflags .tf = false ∧ s.sample.interrupted = false) ∧
        ((∃ e, CanStop s.sample False e ∧ step s = stopped s.sample e) ∨
          ∃ i c, isPfx i = false ∧ step s = counted (exec i { s.sample with cur := c })) := by
  have htf : flag s.sample.eflags .tf = flag s.eflags .tf := by rw [State.sample_eflags]
  obtain ⟨h, hstep⟩ | ⟨h, hint, hstep⟩ | ⟨⟨h, hint⟩, hrest⟩ := stepSampled_cases s.sample
  · exact .inl ⟨htf ▸ h, hstep⟩
  · exact .inr (.inl ⟨htf ▸ h, hint, hstep.trans (by rw [State.sample_eip])⟩)
  · exact .inr (.inr ⟨⟨htf ▸ h, hint⟩, hrest⟩)

/-- A step that answers ran an instruction from the sampled state. -/
theorem step_next {s t : State} (h : step s = .next t) :
    ∃ i c u, isPfx i = false ∧ exec i { s.sample with cur := c } = .next u ∧ t = { u with draws := u.draws + 1 } := by
  obtain ⟨_, hstep⟩ | ⟨_, _, hstep⟩ | ⟨_, ⟨e, _, hstep⟩ | ⟨i, c, hi, hstep⟩⟩ := step_cases s
  · cases hstep.symm.trans h
  · cases hstep.symm.trans h
  · have hstop := hstep.symm.trans h
    cases e <;> cases hstop
  · obtain ⟨u, hexec, ht⟩ := (counted_next _ t).1 (hstep.symm.trans h)
    exact ⟨i, c, u, hi, hexec, ht⟩

/-- An exception of a step is a stop of the source's kind, and the state it leaves is that of the sample but CR2. -/
theorem step_raised {s a : State} {x : Exc} {code : Option Word} (h : step s = .fault (.raised x code a)) :
    ∃ c cr2 low, CanStop s.sample low (.exc x c cr2) ∧ code = s.sample.reportedCode c ∧ a = s.sample.afterFault cr2 := by
  obtain ⟨_, hstep⟩ | ⟨_, _, hstep⟩ | ⟨_, ⟨e, hstop, hstep⟩ | ⟨i, c, hi, hstep⟩⟩ := step_cases s
  · cases hstep.symm.trans h
  · cases hstep.symm.trans h
  · have hraised := hstep.symm.trans h
    cases e with
    | exc y c cr2 => cases hraised; exact ⟨c, cr2, _, hstop, rfl, rfl⟩
    | shutdown => cases hraised
    | refuse r => cases hraised
  · have hraised := (counted_fault _ _).1 (hstep.symm.trans h)
    obtain ⟨k, hk⟩ := shapeOf_isSome i hi
    rw [exec_shape i k _ hk, conclude_raised] at hraised
    obtain ⟨d, cr2, herror, rfl, rfl⟩ := hraised
    exact ⟨d, cr2, _, (meaningOf_stops _ k _ herror).congr (sameChecks_withCur s.sample c) rfl, rfl, rfl⟩

end Sys2Proof.Machine
end

section
/-! The whole machine: the invariant, privilege, EIP and the inhibit, the interrupt boundary, precise exceptions and their codes,
over every step. -/

namespace Sys2Proof.Machine

/-! ## The instructions of a shape -/

/-- The instructions that have a shape, where one of them matters. -/
def Shape.forms (i : Instr) : Shape → Prop
  | .popSeg r => (i, r) ∈ segPops
  | .popFlags w => (i, w) ∈ [(Instr.popf, Width.word), (Instr.popfd, Width.dword)]
  | .push f => i = f.instr
  | .pushAll w => (i, w) ∈ [(Instr.pusha, Width.word), (Instr.pushad, Width.dword)]
  | .pushFlags w => (i, w) ∈ [(Instr.pushf, Width.word), (Instr.pushfd, Width.dword)]
  | .retNear _ => i = .retNear ∨ ∃ m, i = .retNearImm m
  | .retFar n => isFarRet i n
  | .sti => i = .sti
  | .scas w => i = scasInstr w
  | .stos w => i = stosInstr w
  | .wait => i = .wait
  | _ => True

theorem shapeOf_forms (i : Instr) (k : Shape) (h : shapeOf i = some k) : k.forms i := by
  cases i with
  | popRm rm => cases rm <;> cases h <;> trivial
  | retNearImm m => cases h; exact .inr ⟨m, rfl⟩
  | retFarImm m => cases h; exact .inr ⟨m, rfl, rfl⟩
  | _ => cases h <;> simp [Shape.forms, segPops, PushForm.instr, isFarRet, scasInstr, stosInstr]

/-! ## What every instruction keeps -/

/-- No instruction writes a segment register but those of `writtenSegs`. -/
theorem segs_frame (segs : List SReg) (bits : List Nat) : Frame segs bits (fun s t => ∀ r, r ∉ segs → t.seg r = s.seg r) where
  refl _ _ _ := rfl
  trans h1 h2 r hr := (h2 r hr).trans (h1 r hr)
  advance _ _ _ := rfl
  stay _ _ _ := rfl
  jump _ _ _ _ := rfl
  setReg _ _ _ _ _ _ := rfl
  pokes s ps bs _ r _ := congrArg (SegRegs.get · r) (s.pokes_segs ps bs)
  setSp _ _ _ _ _ := rfl
  commit s r _ := congrArg (SegRegs.get · r) s.commitStores_segs
  exchangeBytes s ps bs _ r _ := congrArg (SegRegs.get · r) (s.exchangeBytes_segs ps bs)
  inhibit _ _ _ _ := rfl
  eflags _ _ _ _ _ := rfl
  seg _ _ _ hq _ hr := SegRegs.get_set_other _ _ _ _ fun h => hr (h ▸ hq)
  regs _ _ _ _ := rfl
  cur _ _ _ _ := rfl

theorem exec_seg (s t : State) (i : Instr) (h : exec i s = .next t) (r : SReg) (hr : r ∉ writtenSegs i) :
    t.seg r = s.seg r :=
  (segs_frame (writtenSegs i) popfBits).exec s t i (List.Subset.refl _) (writtenBits_subset i) h r hr

theorem exec_eflags (s t : State) (i : Instr) (h : exec i s = .next t) : sameOutside (writtenBits i) s.eflags t.eflags :=
  (eflags_frame (writtenSegs i) (writtenBits i)).exec s t i (List.Subset.refl _) (List.Subset.refl _) h

theorem exec_systemRegs (s t : State) (i : Instr) (h : exec i s = .next t) : t.systemRegs = s.systemRegs :=
  (systemRegs_frame (writtenSegs i) popfBits).exec s t i (List.Subset.refl _) (writtenBits_subset i) h

theorem exec_mode (s t : State) (i : Instr) (h : exec i s = .next t) : t.mode = s.mode :=
  State.mode_congr (congrArg SystemRegs.cr0 (exec_systemRegs s t i h))
    (exec_eflags s t i h _ fun hvm => absurd (writtenBits_subset i hvm) (by decide))

/-! ## Memory and the pending stores (20_memory R80, R94) -/

/-- Memory is in canonical form, and pending stores are at physical addresses. -/
def memoryOk (s : State) : Prop := Memory.wf s.mem = true ∧ ∀ c ∈ s.coproc, c.addr < 2 ^ 32

/-- A store marks pending stores, and moves none. -/
theorem State.pokes_pending (s : State) (ps : List Nat) (bs : List Byte) :
    ∀ c ∈ (s.pokes ps bs).coproc, ∃ d ∈ s.coproc, d.addr = c.addr := by
  induction ps generalizing s bs with
  | nil => exact fun c hc => ⟨c, hc, rfl⟩
  | cons p ps ih =>
    cases bs with
    | nil => exact fun c hc => ⟨c, hc, rfl⟩
    | cons b bs =>
      intro c hc
      obtain ⟨d, hd, haddr⟩ := ih (s.poke p b) bs c hc
      obtain ⟨d', hd', rfl⟩ := List.mem_map.1 (show d ∈ markRaced p s.coproc from hd)
      refine ⟨d', hd', haddr ▸ ?_⟩
      split <;> rfl

theorem memoryOk_frame (segs : List SReg) (bits : List Nat) : Frame segs bits (fun s t => memoryOk s → memoryOk t) where
  refl _ h := h
  trans h1 h2 h := h2 (h1 h)
  advance _ h := h
  stay _ h := h
  jump _ _ h := h
  setReg _ _ _ _ h := h
  pokes s ps bs hps := by
    rintro ⟨hwf, haddr⟩
    refine ⟨s.pokes_wf ps bs hwf hps, fun c hc => ?_⟩
    obtain ⟨d, hd, hsame⟩ := s.pokes_pending ps bs c hc
    exact hsame ▸ haddr d hd
  setSp _ _ _ h := h
  commit s h := ⟨s.commitStores_wf h.1 h.2, fun _ hc => nomatch hc⟩
  exchangeBytes s ps bs hps h :=
    ⟨(s.exchangeBytes_mem ps bs).symm ▸ s.pokes_wf ps bs h.1 hps, fun c hc => h.2 c (s.exchangeBytes_pending ps bs c hc)⟩
  inhibit _ _ h := h
  eflags _ _ _ h := h
  seg _ _ _ _ h := h
  regs _ _ h := h
  cur _ _ h := h

theorem State.sample_memoryOk (s : State) (h : memoryOk s) : memoryOk s.sample := by
  obtain ⟨hwf, haddr⟩ := h
  refine ⟨by rwa [s.sample_mem], ?_⟩
  unfold State.sample
  split
  · exact haddr
  · intro c hc
    obtain hold | hnew := List.mem_append.1 hc
    · exact haddr c hold
    · obtain ⟨d, _, rfl⟩ := List.mem_map.1 hnew
      exact Nat.mod_lt _ (by decide)

/-! ## RET far in protected mode: CS and SS (42_ret R237–R240) -/

@[simp] theorem State.outerSp_segs (s : State) (image : Dword) (imm : Nat) : (s.outerSp image imm).segs = s.segs := by
  unfold State.outerSp
  simp only
  split
  · rfl
  · split <;> rfl

/-- What CS and SS are after a far RET in protected mode: the descriptors checked, at the same or at an outer level. -/
theorem retFarProt_segs {s t : State} {imm : Nat} (h : retFarProt imm s = .ok t) :
    ∃ sel d, s.returnCode sel = .ok d ∧ t.segs.cs = SegReg.loaded sel d ∧
      (rpl sel = s.cpl ∧ t.segs.ss = s.segs.ss ∨
        s.cpl < rpl sel ∧ ∃ ssel e, s.returnStack ssel (rpl sel) = .ok e ∧ t.segs.ss = SegReg.loaded ssel e) := by
  simp only [retFarProt, Res.bind_ok, stopIf_raise, decide_eq_false_iff_not] at h
  obtain ⟨_, _, x, _, _, hinward, h⟩ := h
  split at h
  next hsame =>
    simp only [retSameLevel, Res.bind_ok, Res.pure_ok] at h
    obtain ⟨d, hd, _, _, _, _, rfl⟩ := h
    exact ⟨_, d, hd, rfl, .inl ⟨hsame, rfl⟩⟩
  next houter =>
    simp only [retOuterLevel, Res.bind_ok, Res.pure_ok] at h
    obtain ⟨_, _, _, _, _, _, _, _, d, hd, e, he, _, _, rfl⟩ := h
    exact ⟨_, d, hd, rfl, .inr ⟨by bv_omega, _, e, he, congrArg SegRegs.ss (State.outerSp_segs _ _ imm)⟩⟩

/-! ## Privilege (10_state R43, 42_ret R244) -/

/-- CPL depends on the mode and on CS. -/
theorem State.cpl_congr {s t : State} (hmode : t.mode = s.mode) (hcs : t.segs.cs = s.segs.cs) : t.cpl = s.cpl := by
  unfold State.cpl; rw [hmode, hcs]

theorem State.cpl_prot {s : State} (h : s.mode = .prot) : s.cpl = rpl s.segs.cs.selector := by
  unfold State.cpl; rw [h]

/-- Outside protected mode CPL is the mode's. -/
theorem State.cpl_of_ne_prot {s t : State} (hmode : t.mode = s.mode) (h : s.mode ≠ .prot) : t.cpl = s.cpl := by
  unfold State.cpl
  rw [hmode]
  cases hs : s.mode with
  | prot => exact absurd hs h
  | real => rfl
  | v86 => rfl

/-- A far RET is one shape. -/
theorem exec_retFar_ok {s t : State} {i : Instr} {n : Nat} (hi : isFarRet i n) (h : exec i s = .next t)
    (hprot : s.mode = .prot) : retFarProt n s = .ok t := by
  rw [exec_retFar s i n hi, conclude_next, retFarBy, hprot] at h
  exact h

/-- Either an instruction is a far RET, or it does not write CS. -/
theorem isFarRet_or_cs_kept (i : Instr) : (∃ n, isFarRet i n) ∨ SReg.cs ∉ writtenSegs i := by
  cases i with
  | retFar => exact .inl ⟨0, .inl ⟨rfl, rfl⟩⟩
  | retFarImm m => exact .inl ⟨_, .inr ⟨m, rfl, rfl⟩⟩
  | _ => exact .inr (by simp [writtenSegs])

/-- Either an instruction is a far RET or POP SS, or it does not write SS. -/
theorem isFarRet_or_popSs_or_ss_kept (i : Instr) : (∃ n, isFarRet i n) ∨ i = .popSs ∨ SReg.ss ∉ writtenSegs i := by
  cases i with
  | retFar => exact .inl ⟨0, .inl ⟨rfl, rfl⟩⟩
  | retFarImm m => exact .inl ⟨_, .inr ⟨m, rfl, rfl⟩⟩
  | popSs => exact .inr (.inl rfl)
  | _ => exact .inr (.inr (by simp [writtenSegs]))

/-- No instruction makes the machine more privileged. -/
theorem exec_cpl_le (s t : State) (i : Instr) (h : exec i s = .next t) : s.cpl ≤ t.cpl := by
  have hmode := exec_mode s t i h
  by_cases hprot : s.mode = .prot
  · obtain ⟨n, hi⟩ | hcs := isFarRet_or_cs_kept i
    · obtain ⟨sel, d, _, hcs, hlevel⟩ := retFarProt_segs (exec_retFar_ok hi h hprot)
      rw [State.cpl_prot (hmode.trans hprot), hcs]
      show s.cpl ≤ rpl sel
      obtain ⟨hsame, _⟩ | ⟨houter, _⟩ := hlevel <;> bv_omega
    · rw [State.cpl_congr hmode (exec_seg s t i h .cs hcs)]; exact BitVec.le_refl _
  · rw [State.cpl_of_ne_prot hmode hprot]; exact BitVec.le_refl _

/-- A far RET in protected mode leaves CS and SS of the new level. -/
theorem retFarProt_privilegeOk {s t : State} {n : Nat} (hs : privilegeOk s) (hprot : s.mode = .prot)
    (h : retFarProt n s = .ok t) : privilegeOk t := by
  intro ht
  obtain ⟨_, _, _, _, hwritable, hpresent, hdpl, hrpl⟩ := hs hprot
  obtain ⟨sel, d, hcode, hcs, hlevel⟩ := retFarProt_segs h
  obtain ⟨_, _, hisCode, hcodePresent, hnonconforming, hconforming⟩ := (s.returnCode_ok sel d).1 hcode
  have hcpl : t.cpl = rpl sel := by rw [State.cpl_prot ht, hcs]; rfl
  rw [hcpl, hcs]
  obtain ⟨hsame, hss⟩ | ⟨houter, ssel, e, hstack, hss⟩ := hlevel
  · rw [hss]
    exact ⟨hisCode, hcodePresent, hnonconforming, hconforming.imp_right fun hle => by
      show d.dpl ≤ rpl sel
      bv_omega, hwritable, hpresent, hdpl.trans hsame.symm, hrpl.trans hsame.symm⟩
  · obtain ⟨_, _, hw, hlevel, hd, hp⟩ := (s.returnStack_ok ssel _ e).1 hstack
    rw [hss]
    exact ⟨hisCode, hcodePresent, hnonconforming, hconforming.imp_right fun hle => by
      show d.dpl ≤ rpl sel
      bv_omega, hw, hp, hd, hlevel⟩

/-- POP SS in protected mode leaves SS of the current level. -/
theorem exec_popSs_ss {s t : State} (hprot : s.mode = .prot) (h : exec .popSs s = .next t) :
    t.segs.ss.cache.isWritable = true ∧ t.segs.ss.cache.present = true ∧ t.segs.ss.cache.dpl = s.cpl ∧
      rpl t.segs.ss.selector = s.cpl := by
  rw [exec_shape .popSs _ s rfl, conclude_next] at h
  simp only [meaningOf, popSegment, popSeg, Res.bind_ok, Res.pure_ok, State.loadSeg, hprot, if_true] at h
  obtain ⟨_, ⟨v, _, g, hload, rfl⟩, rfl⟩ := h
  obtain ⟨d, _, _, hlevel, hw, hd, hp, rfl⟩ := (s.loadSsProt_ok _ g).1 hload
  exact ⟨hw, hp, hd, hlevel⟩

theorem exec_privilegeOk (s t : State) (i : Instr) (hs : privilegeOk s) (h : exec i s = .next t) : privilegeOk t := by
  have hmode := exec_mode s t i h
  intro ht
  have hprot := hmode.symm.trans ht
  obtain ⟨hcode, hpresent, hnonconforming, hconforming, hw, hp, hd, hlevel⟩ := hs hprot
  obtain ⟨n, hi⟩ | hcs := isFarRet_or_cs_kept i
  · exact retFarProt_privilegeOk hs hprot (exec_retFar_ok hi h hprot) ht
  · have hcs : t.segs.cs = s.segs.cs := exec_seg s t i h .cs hcs
    rw [State.cpl_congr hmode hcs, hcs]
    obtain ⟨n, hi⟩ | rfl | hss := isFarRet_or_popSs_or_ss_kept i
    · have kept := retFarProt_privilegeOk hs hprot (exec_retFar_ok hi h hprot) ht
      rwa [State.cpl_congr hmode hcs, hcs] at kept
    · exact ⟨hcode, hpresent, hnonconforming, hconforming, exec_popSs_ss hprot h⟩
    · have hss : t.segs.ss = s.segs.ss := exec_seg s t i h .ss hss
      rw [hss]
      exact ⟨hcode, hpresent, hnonconforming, hconforming, hw, hp, hd, hlevel⟩

/-! ## The reserved flags (10_state R29) -/

/-- A bit that POPF may not write is the only kind the reserved ones are. -/
theorem reservedOk_of_sameOutside {f g : Dword} (h : sameOutside popfBits f g) (hf : reservedOk f) : reservedOk g := by
  have mask : ∀ b : Fin 32, (0xFFFC802A : Dword).getLsbD b.1 = true → b.1 ∉ popfBits := by decide
  rw [reservedOk, ← show f &&& 0xFFFC802A = 2 from hf]
  apply BitVec.eq_of_getLsbD_eq
  intro b hb
  rw [BitVec.getLsbD_and, BitVec.getLsbD_and]
  cases hm : (0xFFFC802A : Dword).getLsbD b with
  | false => rw [Bool.and_false, Bool.and_false]
  | true => rw [h b (mask ⟨b, hb⟩ hm)]

/-! ## Privilege over IF and IOPL (40_stack R160, 43_flag_control R265) -/

/-- POPF writes a bit it changes. -/
theorem popFlags_changes {s t : State} {w : Width} (h : popFlags w s = .ok t) (b : Nat)
    (hb : t.eflags.getLsbD b ≠ s.eflags.getLsbD b) : (popfMask s.mayWriteIf s.mayWriteIopl).getLsbD b = true := by
  simp only [popFlags, State.pop, Res.bind_ok, Res.pure_ok] at h
  obtain ⟨_, _, ⟨v, _⟩, ⟨_, _, hpop⟩, _, _, rfl⟩ := h
  cases hpop
  by_contra hmask
  refine hb ?_
  show (s.popfFlags _).getLsbD b = _
  rw [State.popfFlags, popfMerge_bit, if_neg hmask]

/-- POPF and POPFD alone may change IOPL; they and STI may change IF. -/
theorem writtenBits_privileged (i : Instr) :
    (12 ∈ writtenBits i ∨ 13 ∈ writtenBits i → ∃ w, shapeOf i = some (.popFlags w)) ∧
      (9 ∈ writtenBits i → i = .sti ∨ ∃ w, shapeOf i = some (.popFlags w)) := by
  cases i with
  | popf => exact ⟨fun _ => ⟨.word, rfl⟩, fun _ => .inr ⟨.word, rfl⟩⟩
  | popfd => exact ⟨fun _ => ⟨.dword, rfl⟩, fun _ => .inr ⟨.dword, rfl⟩⟩
  | _ => simp [writtenBits]

theorem exec_iopl (s t : State) (i : Instr) (h : exec i s = .next t) (hreal : s.mode ≠ .real)
    (hchange : iopl t.eflags ≠ iopl s.eflags) : s.mode = .prot ∧ s.cpl = 0 := by
  have hbit : ∃ b, (b = 12 ∨ b = 13) ∧ t.eflags.getLsbD b ≠ s.eflags.getLsbD b := by
    by_contra hkept
    push Not at hkept
    refine hchange (BitVec.eq_of_getLsbD_eq fun j hj => ?_)
    rw [iopl, iopl, BitVec.getLsbD_extractLsb', BitVec.getLsbD_extractLsb', hkept (12 + j) (by omega)]
  obtain ⟨b, hb, hne⟩ := hbit
  have hwritten : b ∈ writtenBits i := by
    by_contra hout
    exact hne (exec_eflags s t i h b hout)
  obtain ⟨w, hk⟩ := (writtenBits_privileged i).1 (by obtain rfl | rfl := hb <;> simp [hwritten])
  rw [exec_shape i _ s hk, conclude_next] at h
  have hmask := popFlags_changes h b hne
  have may : s.mayWriteIopl = true := by
    cases hm : s.mayWriteIopl with
    | true => rfl
    | false =>
      rw [hm] at hmask
      obtain rfl | rfl := hb <;> revert hmask <;> cases s.mayWriteIf <;> decide
  simpa [State.mayWriteIopl, hreal] using may

theorem exec_if (s t : State) (i : Instr) (h : exec i s = .next t) (hreal : s.mode ≠ .real)
    (hchange : flag t.eflags .fi ≠ flag s.eflags .fi) : s.cpl ≤ s.iopl := by
  have hwritten : 9 ∈ writtenBits i := by
    by_contra hout
    exact hchange (exec_eflags s t i h 9 hout)
  obtain rfl | ⟨w, hk⟩ := (writtenBits_privileged i).2 hwritten
  · by_contra hlevel
    have denied : s.mayEnable = false := Bool.eq_false_iff.2 fun hm =>
      ((s.mayEnable_iff).1 hm).elim hreal hlevel
    rw [exec_sti_denied s hreal denied] at h
    cases h
  · rw [exec_shape i _ s hk, conclude_next] at h
    have hmask := popFlags_changes h 9 hchange
    have may : s.mayWriteIf = true := by
      cases hm : s.mayWriteIf with
      | true => rfl
      | false => rw [hm] at hmask; revert hmask; cases s.mayWriteIopl <;> decide
    simpa [State.mayWriteIf, hreal] using may

/-! ## The sample -/

theorem sameChecks_sample (s : State) : SameChecks s s.sample :=
  ⟨s.sample_cr0, by rw [s.sample_eflags], s.sample_segs, s.sample_pages, s.sample_populated⟩

/-- An interrupt is taken exactly where one is requested and permitted and the free choice falls on it (60_exceptions R421). -/
theorem State.sample_interrupted (s : State) :
    s.sample.interrupted = true ↔ s.sample.pins.intr = true ∧ flag s.eflags .fi = true ∧ s.inhibit = false ∧
      Config.drawBit s.draws .interrupt = true := by
  rw [State.interrupted, s.sample_eflags, s.sample_inhibit, s.sample_draws]
  simp only [Bool.and_eq_true, Bool.not_eq_true', and_assoc]

/-- A step that takes an interrupt found it at the boundary. -/
theorem step_interrupt {s : State} {a : Dword} (h : step s = .fault (.interrupt a)) : s.sample.interrupted = true := by
  obtain ⟨_, hstep⟩ | ⟨_, hint, _⟩ | ⟨_, ⟨e, _, hstep⟩ | ⟨i, c, hi, hstep⟩⟩ := step_cases s
  · cases hstep.symm.trans h
  · exact hint
  · have hstop := hstep.symm.trans h
    cases e <;> cases hstop
  · have hexec := (counted_fault _ _).1 (hstep.symm.trans h)
    obtain ⟨k, hk⟩ := shapeOf_isSome i hi
    rw [exec_shape i k _ hk] at hexec
    exact absurd hexec (conclude_interrupt _ _ a)

/-! ## The statements of the family -/

/-- Settles O54: each part of the invariant is evaluated, or asks of protected mode what the reset machine is not in. -/
theorem resetKeepsInvariant : Obligations.ResetKeepsInvariant := by
  unfold Obligations.ResetKeepsInvariant
  exact ⟨reset_mem_wf, by unfold reservedOk; decide, fun hprot => absurd hprot (by decide), rfl, fun _ hc => nomatch hc⟩

/-- Settles O55: memory and the pending stores by a frame, the reserved flags by the bits an instruction writes, privilege by
POP SS and far RET, the decoding by how instructions end. -/
theorem stepKeepsInvariant : Obligations.StepKeepsInvariant := by
  unfold Obligations.StepKeepsInvariant
  rintro s t ⟨hwf, hreserved, hprivilege, _, haddr⟩ h
  have hflags := step_eflags s t h
  obtain ⟨i, c, u, hi, hexec, rfl⟩ := step_next h
  have hsampled : privilegeOk { s.sample with cur := c } := by
    have same := sameChecks_sample s
    intro hprot
    have hprivilege := hprivilege (same.mode.symm.trans hprot)
    rwa [← same.cpl, ← same.segs] at hprivilege
  obtain ⟨hwf', haddr'⟩ := (memoryOk_frame (writtenSegs i) popfBits).exec _ u i (List.Subset.refl _) (writtenBits_subset i)
    hexec (s.sample_memoryOk ⟨hwf, haddr⟩)
  obtain ⟨k, _, hends⟩ := exec_ends _ u i hexec hi
  have hcur : u.cur = Cur.idle := by cases hends <;> assumption
  exact ⟨hwf', reservedOk_of_sameOutside hflags hreserved, exec_privilegeOk _ u i hsampled hexec, hcur, haddr'⟩

/-- Settles O57: a far RET alone writes CS, and goes to the same or to an outer level. -/
theorem privilegeOnlyGoesOutward : Obligations.PrivilegeOnlyGoesOutward := by
  unfold Obligations.PrivilegeOnlyGoesOutward
  refine ⟨fun s t h => ?_, fun s t i h r hr => exec_seg s t i h r hr⟩
  obtain ⟨i, c, u, _, hexec, rfl⟩ := step_next h
  have hcpl : State.cpl { s.sample with cur := c } = s.cpl := (sameChecks_sample s).cpl
  exact hcpl ▸ exec_cpl_le _ u i hexec

/-- Settles O59: POPF and POPFD alone change IOPL, they and STI alone IF, under R160's and R265's conditions. -/
theorem ioplAndIfNeedPrivilege : Obligations.IoplAndIfNeedPrivilege := by
  unfold Obligations.IoplAndIfNeedPrivilege
  intro s t h hreal
  have same := sameChecks_sample s
  obtain ⟨i, c, u, _, hexec, rfl⟩ := step_next h
  have hflags : s.sample.eflags = s.eflags := s.sample_eflags
  have hreal' : s.sample.mode ≠ .real := same.mode ▸ hreal
  have hiopl := exec_iopl { s.sample with cur := c } u i hexec hreal'
  have hif := exec_if { s.sample with cur := c } u i hexec hreal'
  have hcpl : State.cpl { s.sample with cur := c } = s.cpl := same.cpl
  have hmode : State.mode { s.sample with cur := c } = s.mode := same.mode
  have hlevel : State.iopl { s.sample with cur := c } = s.iopl := congrArg Machine.iopl hflags
  rw [hcpl, hmode] at hiopl
  rw [hcpl, hlevel] at hif
  exact ⟨fun hne => hiopl (hflags ▸ hne), fun hne => hif (hflags ▸ hne)⟩

/-- Settles O60: the ways a shape ends, read off the instruction. -/
theorem whereEipGoes : Obligations.WhereEipGoes := by
  unfold Obligations.WhereEipGoes
  intro s t i h hi
  obtain ⟨k, hk, hends⟩ := exec_ends s t i h hi
  have forms := shapeOf_forms i k hk
  cases hends with
  | completes hcur heip hinhibit =>
    refine ⟨hcur, fun _ _ => .inl heip, fun hset => ?_⟩
    obtain rfl | rfl := hinhibit hset
    · exact .inl forms
    · exact .inr (.inl (by simpa [Shape.forms, segPops] using forms))
  | stays hcur heip hinhibit hwhy =>
    refine ⟨hcur, fun _ _ => .inr ⟨heip, hinhibit, ?_⟩, fun hset => .inr (.inr ⟨hinhibit ▸ hset, heip⟩)⟩
    obtain ⟨rfl, hbusy⟩ | ⟨hrep, w, rfl | rfl⟩ := hwhy
    · exact .inl ⟨forms, hbusy⟩
    · exact .inr ⟨hrep, w, .inl forms⟩
    · exact .inr ⟨hrep, w, .inr forms⟩
  | jumps hcur hinhibit hret =>
    refine ⟨hcur, fun hnone himm => ?_, fun hset => by rw [hinhibit] at hset; cases hset⟩
    exfalso
    obtain ⟨imm, rfl | rfl⟩ := hret
    · obtain rfl | ⟨m, rfl⟩ := forms
      · simp at hnone
      · exact (himm m).1 rfl
    · obtain ⟨rfl, _⟩ | ⟨m, rfl, _⟩ := forms
      · simp at hnone
      · exact (himm m).2 rfl

/-- Settles O6: a step's interrupt is found at the boundary, under R421's condition and the model's free choice. -/
theorem interruptOnlyWhereAllowed : Obligations.InterruptOnlyWhereAllowed := by
  unfold Obligations.InterruptOnlyWhereAllowed
  intro s
  constructor
  · intro hforbidden a h
    obtain ⟨hintr, hfi, hinhibit, _⟩ := s.sample_interrupted.1 (step_interrupt h)
    simp [hintr, hfi, hinhibit] at hforbidden
  · intro hintr hfi hinhibit htf
    split
    next hdraw =>
      have hint := s.sample_interrupted.2 ⟨hintr, hfi, hinhibit, hdraw⟩
      obtain ⟨h, _⟩ | ⟨_, _, hstep⟩ | ⟨⟨_, h⟩, _⟩ := step_cases s
      · rw [htf] at h; cases h
      · exact hstep
      · rw [hint] at h; cases h
    next hdraw => exact fun a h => hdraw (s.sample_interrupted.1 (step_interrupt h)).2.2.2

/-- Settles O8: the stops of the source's kinds, and their codes as reported. -/
theorem errorCodes : Obligations.ErrorCodes := by
  unfold Obligations.ErrorCodes
  refine ⟨rfl, fun s a x code h => ?_⟩
  obtain ⟨c, cr2, low, hstop, rfl, _⟩ := step_raised h
  have hstop := hstop.congr (sameChecks_sample s) s.sample_descs
  have hmode : s.sample.mode = s.mode := (sameChecks_sample s).mode
  constructor
  · intro hreal
    refine ⟨by rw [State.reportedCode, hmode, hreal], ?_⟩
    rintro rfl
    cases hstop with
    | coded _ _ hx _ => simp at hx
    | bare _ hx => simp at hx
    | page _ _ _ hon _ => simp [State.paging, hreal] at hon
    | descriptor _ _ _ hprot _ => rw [hreal] at hprot; cases hprot
  · intro hreal
    rw [State.reportedCode_of_ne_real _ _ (hmode ▸ hreal)]
    cases hstop with
    | coded _ c hx hc => obtain rfl | rfl | rfl := hx <;> exact ⟨c, rfl, hc⟩
    | bare _ hx => obtain rfl | rfl | rfl := hx <;> rfl
    | page => rfl
    | descriptor => rfl

/-- Settles O9: a Shutdown is the stop of a push, whose shape names its instruction. -/
theorem onlyPushesShutDown : Obligations.OnlyPushesShutDown := by
  unfold Obligations.OnlyPushesShutDown
  intro s i h past
  have hi : isPfx i = false := by
    cases hp : isPfx i with
    | false => rfl
    | true =>
      obtain ⟨c, hexec⟩ := exec_prefix i s hp
      rw [hexec] at h
      cases h
  obtain ⟨k, hk⟩ := shapeOf_isSome i hi
  have forms := shapeOf_forms i k hk
  rw [exec_shape i k s hk, conclude_shutdown] at h
  cases meaningOf_stops s k .shutdown h with
  | shutdown hlow =>
    cases k with
    | push f => exact ⟨hlow.1, .inl ⟨f, forms, hlow.2⟩⟩
    | pushFlags w =>
      obtain ⟨rfl, rfl⟩ | ⟨rfl, rfl⟩ : i = .pushf ∧ w = .word ∨ i = .pushfd ∧ w = .dword := by simpa [Shape.forms] using forms
      · exact ⟨hlow.1, .inr (.inl ⟨rfl, hlow.2⟩)⟩
      · exact ⟨hlow.1, .inr (.inr (.inl ⟨rfl, hlow.2⟩))⟩
    | pushAll w =>
      obtain ⟨j, h1, h8, hreal, hpast⟩ := hlow
      obtain ⟨rfl, rfl⟩ | ⟨rfl, rfl⟩ : i = .pusha ∧ w = .word ∨ i = .pushad ∧ w = .dword := by simpa [Shape.forms] using forms
      · exact ⟨hreal, .inr (.inr (.inr (.inl ⟨rfl, j, h1, h8, hpast⟩)))⟩
      · exact ⟨hreal, .inr (.inr (.inr (.inr ⟨rfl, j, h1, h8, hpast⟩)))⟩
    | _ => exact hlow.elim

end Sys2Proof.Machine
end

section
/-! RET far in protected mode: the checks on the return selectors row by row; the same level; the outer level. -/

namespace Sys2Proof.Machine

/-! ## Computations step by step -/

theorem Res.ok_bind {α β : Type} (a : α) (f : α → Res β) : ((.ok a : Res α) >>= f) = f a := rfl

theorem Res.raise_bind {α β : Type} (x : Exc) (c : Word) (f : α → Res β) : ((raise x c : Res α) >>= f) = raise x c := rfl

theorem Res.raisePf_bind {α β : Type} (c : Word) (lin : Dword) (f : α → Res β) :
    ((raisePf c lin : Res α) >>= f) = raisePf c lin := rfl

theorem stopIf_true (e : Res Unit) : stopIf true e = e := rfl

theorem stopIf_false (e : Res Unit) : stopIf false e = .ok () := rfl

/-- A selector of 4 or more is not null (10_state R40). -/
theorem nullSel_of_le {sel : Word} (h : 4 ≤ sel.toNat) : nullSel sel = false :=
  Bool.eq_false_iff.2 fun hnull => absurd ((nullSel_iff sel).1 hnull) (by omega)

section
variable (s : State) (sel : Word)

theorem State.descOrGp_none (h : s.desc sel = none) : s.descOrGp sel = raise .gp (selCode sel) := by
  unfold State.descOrGp; rw [h]

theorem State.descOrGp_pageFault {c : Word} {lin : Dword} (h : s.desc sel = some (.pageFault c lin)) :
    s.descOrGp sel = raisePf c lin := by
  unfold State.descOrGp; rw [h]

theorem State.descOrGp_found {d : Descriptor} (h : s.desc sel = some (.found d)) : s.descOrGp sel = .ok d :=
  (s.descOrGp_ok sel d).2 h

end

/-! ## The checks on the return selector (42_ret R238, R239) -/

/-- The segment of a return selector is no code segment, or one the return may not go to. -/
abbrev State.badReturnCode (s : State) (sel : Word) (d : Descriptor) : Prop :=
  d.isCode = false ∨ (if d.isConforming = true then s.cpl < d.dpl else d.dpl ≠ rpl sel)

section
variable (s : State) (sel : Word)

theorem State.returnCode_null (h : sel.toNat < 4) : s.returnCode sel = raise .gp 0 := by
  rw [State.returnCode, (nullSel_iff sel).2 h, stopIf_true, Res.raise_bind]

variable (h : 4 ≤ sel.toNat)
include h

/-- Past the first check a return selector's descriptor is read. -/
theorem State.returnCode_descOrGp : s.returnCode sel = s.descOrGp sel >>= fun d => do
    stopIf (!d.isCode) (raise .gp (selCode sel))
    stopIf (!d.isConforming && d.dpl != rpl sel) (raise .gp (selCode sel))
    stopIf (d.isConforming && decide (s.cpl < d.dpl)) (raise .gp (selCode sel))
    stopIf (!d.present) (raise .np (selCode sel))
    return d := by
  rw [State.returnCode, nullSel_of_le h, stopIf_false, Res.ok_bind]

theorem State.returnCode_outside (hdesc : s.desc sel = none) : s.returnCode sel = raise .gp (selCode sel) := by
  rw [s.returnCode_descOrGp sel h, s.descOrGp_none sel hdesc, Res.raise_bind]

theorem State.returnCode_pageFault {c : Word} {lin : Dword} (hdesc : s.desc sel = some (.pageFault c lin)) :
    s.returnCode sel = raisePf c lin := by
  rw [s.returnCode_descOrGp sel h, s.descOrGp_pageFault sel hdesc, Res.raisePf_bind]

theorem State.returnCode_bad {d : Descriptor} (hdesc : s.desc sel = some (.found d)) (hbad : s.badReturnCode sel d) :
    s.returnCode sel = raise .gp (selCode sel) := by
  rw [s.returnCode_descOrGp sel h, s.descOrGp_found sel hdesc, Res.ok_bind]
  cases hcode : d.isCode with
  | false => rfl
  | true =>
    have hlevel := hbad.resolve_left (by rw [hcode]; simp)
    cases hconforming : d.isConforming with
    | false =>
      rw [hconforming] at hlevel
      have hdpl : (d.dpl != rpl sel) = true := bne_iff_ne.2 hlevel
      rw [hdpl]
      rfl
    | true =>
      rw [if_pos hconforming] at hlevel
      rw [decide_eq_true hlevel]
      rfl

/-- The segment passes all checks but the last. -/
theorem State.returnCode_good {d : Descriptor} (hdesc : s.desc sel = some (.found d)) (hgood : ¬s.badReturnCode sel d) :
    s.returnCode sel = stopIf (!d.present) (raise .np (selCode sel)) >>= fun _ => pure d := by
  rw [State.badReturnCode, not_or, Bool.not_eq_false] at hgood
  obtain ⟨hcode, hlevel⟩ := hgood
  rw [s.returnCode_descOrGp sel h, s.descOrGp_found sel hdesc, Res.ok_bind, hcode]
  cases hconforming : d.isConforming with
  | false =>
    rw [hconforming] at hlevel
    have hdpl : (d.dpl != rpl sel) = false := by simpa using hlevel
    rw [hdpl]
    rfl
  | true =>
    rw [if_pos hconforming] at hlevel
    rw [decide_eq_false hlevel]
    rfl

theorem State.returnCode_absent {d : Descriptor} (hdesc : s.desc sel = some (.found d)) (hgood : ¬s.badReturnCode sel d)
    (hpresent : d.present = false) : s.returnCode sel = raise .np (selCode sel) := by
  rw [s.returnCode_good sel h hdesc hgood, hpresent]
  rfl

theorem State.returnCode_passes {d : Descriptor} (hdesc : s.desc sel = some (.found d)) (hgood : ¬s.badReturnCode sel d)
    (hpresent : d.present = true) : s.returnCode sel = .ok d := by
  rw [s.returnCode_good sel h hdesc hgood, hpresent]
  rfl

end

/-! ## The checks on the return stack selector (42_ret R239) -/

section
variable (s : State) (ssel : Word) (level : BitVec 2)

theorem State.returnStack_null (h : ssel.toNat < 4) : s.returnStack ssel level = raise .gp 0 := by
  rw [State.returnStack, (nullSel_iff ssel).2 h, stopIf_true, Res.raise_bind]

variable (h : 4 ≤ ssel.toNat)
include h

/-- Past the first check a return stack selector's descriptor is read. -/
theorem State.returnStack_descOrGp : s.returnStack ssel level = s.descOrGp ssel >>= fun d => do
    stopIf (!d.isWritable) (raise .gp (selCode ssel))
    stopIf (rpl ssel != level) (raise .gp (selCode ssel))
    stopIf (d.dpl != level) (raise .gp (selCode ssel))
    stopIf (!d.present) (raise .ss (selCode ssel))
    return d := by
  rw [State.returnStack, nullSel_of_le h, stopIf_false, Res.ok_bind]

theorem State.returnStack_outside (hdesc : s.desc ssel = none) : s.returnStack ssel level = raise .gp (selCode ssel) := by
  rw [s.returnStack_descOrGp ssel level h, s.descOrGp_none ssel hdesc, Res.raise_bind]

theorem State.returnStack_pageFault {c : Word} {lin : Dword} (hdesc : s.desc ssel = some (.pageFault c lin)) :
    s.returnStack ssel level = raisePf c lin := by
  rw [s.returnStack_descOrGp ssel level h, s.descOrGp_pageFault ssel hdesc, Res.raisePf_bind]

variable {d : Descriptor} (hdesc : s.desc ssel = some (.found d))
include hdesc

theorem State.returnStack_bad (hbad : d.isWritable = false ∨ rpl ssel ≠ level ∨ d.dpl ≠ level) :
    s.returnStack ssel level = raise .gp (selCode ssel) := by
  rw [s.returnStack_descOrGp ssel level h, s.descOrGp_found ssel hdesc, Res.ok_bind]
  cases hw : d.isWritable with
  | false => rfl
  | true =>
    cases hrpl : rpl ssel != level with
    | true => rfl
    | false =>
      have hdpl : (d.dpl != level) = true := by simp_all
      rw [hdpl]
      rfl

/-- The stack segment passes all checks but the last. -/
theorem State.returnStack_good (hgood : ¬(d.isWritable = false ∨ rpl ssel ≠ level ∨ d.dpl ≠ level)) :
    s.returnStack ssel level = stopIf (!d.present) (raise .ss (selCode ssel)) >>= fun _ => pure d := by
  obtain ⟨hw, hrpl, hdpl⟩ : d.isWritable = true ∧ rpl ssel = level ∧ d.dpl = level := by simpa using hgood
  rw [s.returnStack_descOrGp ssel level h, s.descOrGp_found ssel hdesc, Res.ok_bind, hw, bne_eq_false_iff_eq.2 hrpl,
    bne_eq_false_iff_eq.2 hdpl]
  rfl

theorem State.returnStack_absent (hgood : ¬(d.isWritable = false ∨ rpl ssel ≠ level ∨ d.dpl ≠ level))
    (hpresent : d.present = false) : s.returnStack ssel level = raise .ss (selCode ssel) := by
  rw [s.returnStack_good ssel level h hdesc hgood, hpresent]
  rfl

theorem State.returnStack_passes (hgood : ¬(d.isWritable = false ∨ rpl ssel ≠ level ∨ d.dpl ≠ level))
    (hpresent : d.present = true) : s.returnStack ssel level = .ok d := by
  rw [s.returnStack_good ssel level h hdesc hgood, hpresent]
  rfl

end

/-! ## The dispatch on the level (42_ret R237) -/

section
variable (s : State) (imm : Nat) (x : BitVec s.os.width.bits) (hframe : s.farFrame x)
include hframe

/-- With the CS image read, RET far asks for its level. -/
theorem retFarBy_of_farFrame : retFarBy imm s =
    stopIf (decide (rpl (x.extractLsb' 0 16) < s.cpl)) (raise .gp (selCode (x.extractLsb' 0 16))) >>= fun _ =>
      if rpl (x.extractLsb' 0 16) = s.cpl then retSameLevel imm (x.extractLsb' 0 16) s
        else retOuterLevel imm (x.extractLsb' 0 16) s := by
  obtain ⟨hprot, hlimit, hx⟩ := hframe
  rw [retFarBy, hprot]
  show retFarProt imm s = _
  rw [retFarProt, hlimit, hx, ← itemSelector_eq]
  rfl

theorem retFarBy_inward (hlevel : rpl (x.extractLsb' 0 16) < s.cpl) :
    retFarBy imm s = raise .gp (selCode (x.extractLsb' 0 16)) := by
  rw [retFarBy_of_farFrame s imm x hframe, decide_eq_true hlevel]
  rfl

theorem retFarBy_same (hlevel : rpl (x.extractLsb' 0 16) = s.cpl) :
    retFarBy imm s = retSameLevel imm (x.extractLsb' 0 16) s := by
  have hnot : ¬rpl (x.extractLsb' 0 16) < s.cpl := by rw [hlevel]; exact BitVec.lt_irrefl _
  rw [retFarBy_of_farFrame s imm x hframe, decide_eq_false hnot, if_pos hlevel]
  rfl

theorem retFarBy_outer (hlevel : s.cpl < rpl (x.extractLsb' 0 16)) :
    retFarBy imm s = retOuterLevel imm (x.extractLsb' 0 16) s := by
  rw [retFarBy_of_farFrame s imm x hframe, decide_eq_false (by bv_omega), if_neg (by bv_omega)]
  rfl

end

/-! ## The same level (42_ret R238) -/

section
variable (s : State) (imm : Nat) (sel : Word)

/-- What stops the check of the return selector stops the return. -/
theorem retSameLevel_stops {e : Stop} (h : s.returnCode sel = .error e) : retSameLevel imm sel s = .error e := by
  rw [retSameLevel, h]
  rfl

variable {d : Descriptor} {v : BitVec s.os.width.bits} (hcode : s.returnCode sel = .ok d)
  (hv : s.stackRead 0 s.os.width = .ok v)
include hcode hv

theorem retSameLevel_inside (hin : d.inLimit v.toNat 1 = true) :
    retSameLevel imm sel s =
      .ok (s.afterRet (2 * s.os.width.bytes + imm) (SegReg.loaded sel d) (newIp s.os.width v)) := by
  rw [retSameLevel, hcode, hv]
  simp only [Res.ok_bind, newIp_toNat, hin, Bool.not_true, stopIf_false]
  rfl

theorem retSameLevel_outside (hout : d.inLimit v.toNat 1 = false) : retSameLevel imm sel s = raise .gp 0 := by
  rw [retSameLevel, hcode, hv]
  simp only [Res.ok_bind, newIp_toNat, hout, Bool.not_false, stopIf_true, Res.raise_bind]

end

/-! ## The outer level (42_ret R239–R241) -/

/-- The state with only the stack pointer changed. -/
def State.withEsp (s : State) (esp : Dword) : State := { s with regs := { s.regs with esp := esp } }

/-- The outer level's stack pointer is set, and nothing else changes. -/
theorem State.outerSp_eq (s : State) (image : Dword) (imm : Nat) : ∃ esp, s.outerSp image imm = s.withEsp esp := by
  unfold State.outerSp
  simp only
  split
  · exact ⟨_, rfl⟩
  · split <;> exact ⟨_, rfl⟩

/-- Where the immediate is not added, the outer level's pointer is the image. -/
theorem State.outerSp_esp (s : State) (image : Dword) (imm : Nat) (h : imm = 0 ∨ Config.retOuterImm = .none) :
    (s.outerSp image imm).regs.esp = (s.setSp s.os image).regs.esp := by
  unfold State.outerSp
  simp only
  split
  · rfl
  next hne => rw [h.resolve_left hne]

/-- What a far RET to an outer level leaves: the stack pointer and CS and SS from the stack, the data segments as the outer level
may use them. -/
def State.afterRetOuter (s : State) (imm : Nat) (cs ss : SegReg) (image target : Dword) : State :=
  (((((((s.setSeg .ss ss).outerSp image imm).setSeg .cs cs).setSeg .es
    (s.afterOuter s.segs.es (rpl cs.selector) .keepEs)).setSeg .fs
    (s.afterOuter s.segs.fs (rpl cs.selector) .keepFs)).setSeg .gs
    (s.afterOuter s.segs.gs (rpl cs.selector) .keepGs)).setSeg .ds
    (s.afterOuter s.segs.ds (rpl cs.selector) .keepDs)).jump target

section
variable (s : State) (imm : Nat) (cs ss : SegReg) (image target : Dword)

theorem State.afterRetOuter_ss : (s.afterRetOuter imm cs ss image target).segs.ss = ss :=
  congrArg SegRegs.ss (State.outerSp_segs (s.setSeg .ss ss) image imm)

/-- A data-segment register is as the outer level may use it. -/
theorem State.afterRetOuter_data (q : SReg) (hcs : q ≠ .cs) (hss : q ≠ .ss) :
    ∃ slot, (s.afterRetOuter imm cs ss image target).seg q = s.afterOuter (s.seg q) (rpl cs.selector) slot := by
  cases q with
  | cs => exact absurd rfl hcs
  | ss => exact absurd rfl hss
  | es | ds | fs | gs => exact ⟨_, rfl⟩

theorem State.afterRetOuter_esp (h : imm = 0 ∨ Config.retOuterImm = .none) :
    (s.afterRetOuter imm cs ss image target).regs.esp = (s.setSp s.os image).regs.esp :=
  State.outerSp_esp (s.setSeg .ss ss) image imm h

/-- Beside the segment registers and the stack pointer a far RET to an outer level changes EIP, the inhibit and the decoding. -/
theorem State.afterRetOuter_kept :
    regsKept [.n4] s (s.afterRetOuter imm cs ss image target) ∧
      (s.afterRetOuter imm cs ss image target).eflags = s.eflags ∧
      memKept [] s (s.afterRetOuter imm cs ss image target) ∧ systemKept s (s.afterRetOuter imm cs ss image target) := by
  obtain ⟨esp, hesp⟩ := (s.setSeg .ss ss).outerSp_eq image imm
  rw [State.afterRetOuter, hesp]
  exact ⟨setSp_regsKept (s.setSeg .ss ss) .s32 esp, rfl, fun _ _ => rfl, ⟨rfl, rfl, rfl, rfl, rfl, rfl, rfl, rfl, rfl, rfl, rfl, rfl⟩⟩

end

/-- A data-segment register at the outer level: kept or cleared; cleared where the level may not use it, kept where it may or
where it is null (R241). -/
theorem State.afterOuter_cases (s : State) (g : SegReg) (level : BitVec 2) (slot : Config.Slot) :
    (s.afterOuter g level slot = g ∨ s.afterOuter g level slot = { g with selector := 0, valid := false }) ∧
      (g.selector.toNat < 4 → s.afterOuter g level slot = g) ∧
      (4 ≤ g.selector.toNat → (s.desc g.selector = none ∨ g.cache.isReadable = false) ∨
          g.cache.isConforming = false ∧ ¬level ≤ g.cache.dpl ∧ ¬rpl g.selector ≤ g.cache.dpl →
        s.afterOuter g level slot = { g with selector := 0, valid := false }) ∧
      (¬(s.desc g.selector = none ∨ g.cache.isReadable = false) →
        g.cache.isConforming = true ∨ level ≤ g.cache.dpl ∧ rpl g.selector ≤ g.cache.dpl →
        s.afterOuter g level slot = g) := by
  unfold State.afterOuter
  refine ⟨?_, fun hnull => ?_, fun hle hunusable => ?_, fun hgood husable => ?_⟩
  · split
    · exact .inl rfl
    · exact .inr rfl
  · rw [(nullSel_iff _).2 hnull]; rfl
  · have hnot : s.keptOutside g level slot = false := by
      unfold State.keptOutside
      obtain (hnone | hread) | ⟨hconforming, ha, hb⟩ := hunusable
      · rw [hnone]; rfl
      · rw [hread, Bool.not_false, Bool.or_true]; rfl
      · rw [hconforming, decide_eq_false ha, decide_eq_false hb]
        simp
    rw [nullSel_of_le hle, hnot]; rfl
  · have hkept : s.keptOutside g level slot = true := by
      obtain ⟨hsome, hread⟩ := not_or.1 hgood
      have hinside : (s.desc g.selector).isNone = false := by
        cases hd : s.desc g.selector with
        | none => exact absurd hd hsome
        | some a => rfl
      unfold State.keptOutside
      rw [hinside, Bool.eq_true_of_not_eq_false hread]
      obtain hconforming | ⟨ha, hb⟩ := husable
      · rw [hconforming]; rfl
      · rw [decide_eq_true ha, decide_eq_true hb]
        simp
    rw [hkept, Bool.or_true]; rfl

section
variable (s : State) (imm : Nat) (sel : Word) (v y z : BitVec s.os.width.bits)
  (hlimit : s.segs.ss.cache.inLimit (s.spPlus 0).toNat (4 * s.os.width.bytes + imm) = true)
  (hz : s.stackRead (3 * s.os.width.bytes + imm) s.os.width = .ok z)
  (hy : s.stackRead (2 * s.os.width.bytes + imm) s.os.width = .ok y) (hv : s.stackRead 0 s.os.width = .ok v)
include hlimit hz hy hv

/-- With the frame read, the checks of the two selectors and of the offset come in turn. -/
theorem retOuterLevel_of_frame : retOuterLevel imm sel s = do
    let d ← s.returnCode sel
    let e ← s.returnStack (z.extractLsb' 0 16) (rpl sel)
    stopIf (!d.inLimit v.toNat 1) (raise .gp 0)
    return s.afterRetOuter imm (SegReg.loaded sel d) (SegReg.loaded (z.extractLsb' 0 16) e) (y.setWidth 32)
      (newIp s.os.width v) := by
  rw [retOuterLevel]
  simp only [hlimit, hz, hy, hv, Bool.not_true, stopIf_false, Res.ok_bind, newIp_toNat, itemSelector_eq]
  rfl

end

theorem shapeOf_retFar {i : Instr} {imm : Nat} (hi : isFarRet i imm) : shapeOf i = some (.retFar imm) := by
  obtain ⟨rfl, rfl⟩ | ⟨m, rfl, rfl⟩ := hi
  · rfl
  · rfl

/-- An instruction raises what its shape raises, with its code outside real mode (60_exceptions R400, R405). -/
theorem exec_raise {s : State} {i : Instr} {k : Shape} {x : Exc} {c : Word} (hi : shapeOf i = some k) (hmode : s.mode ≠ .real)
    (h : meaningOf k s = raise x c) : exec i s = .fault (.raised x (some c) { s with cur := Cur.idle }) := by
  rw [exec_shape i k s hi, h, conclude_raise, s.reportedCode_of_ne_real _ hmode]

/-- A page fault leaves its linear address in CR2 (R404). -/
theorem exec_raisePf {s : State} {i : Instr} {k : Shape} {c : Word} {lin : Dword} (hi : shapeOf i = some k)
    (hmode : s.mode ≠ .real) (h : meaningOf k s = raisePf c lin) :
    exec i s = .fault (.raised .pf (some c) { s with cr2 := lin, cur := Cur.idle }) := by
  rw [exec_shape i k s hi, h]
  show Host.Outcome.fault (Fault.raised .pf (s.reportedCode (some c)) { s with cr2 := lin, cur := Cur.idle }) = _
  rw [s.reportedCode_of_ne_real _ hmode]

/-- The stack pointer written at the operand size (42_ret R240). -/
theorem State.setSp_os_esp (s : State) (image : Dword) : (s.setSp s.os image).regs.esp =
    if s.os = .s32 then image else (s.regs.esp.extractLsb' 16 16 ++ image.extractLsb' 0 16 : BitVec 32) := by
  unfold State.setSp
  cases s.os with
  | s16 => exact lowWord_eq _ _
  | s32 => rfl

/-- The low half of a stack image, widened first. -/
theorem setWidth_extract_low (os : OSize) (y : BitVec os.width.bits) :
    (y.setWidth 32).extractLsb' 0 16 = y.extractLsb' 0 16 := by
  cases os with
  | s16 => exact BitVec.extractLsb'_setWidth_of_le (by decide)
  | s32 => exact BitVec.extractLsb'_setWidth_of_le (by decide)

/-! ## The statements of the family -/

/-- A segment passes the level check of a return selector (R238, R239). -/
theorem not_badReturnCode {s : State} {sel : Word} {d : Descriptor} (hcode : d.isCode = true)
    (hlevel : if d.isConforming = true then d.dpl ≤ s.cpl else d.dpl = rpl sel) : ¬s.badReturnCode sel d := by
  rintro (hnot | hbad)
  · rw [hcode] at hnot; cases hnot
  · by_cases hc : d.isConforming = true
    · rw [if_pos hc] at hlevel hbad; bv_omega
    · rw [if_neg hc] at hlevel hbad; exact hbad hlevel

/-- Settles O32: the frame is read, the return selector passes, the offset is inside. -/
theorem retSameLevelCompletes : Obligations.RetSameLevelCompletes := by
  unfold Obligations.RetSameLevelCompletes
  intro s i imm v x d hi hprot hlimit hv hx sel hrpl hle hdesc hcode hpresent hlevel hin
  have hgood : ¬s.badReturnCode sel d := not_badReturnCode hcode (by rwa [hrpl])
  have hpasses := s.returnCode_passes sel hle hdesc hgood hpresent
  have runs : exec i s = .next (s.afterRet (2 * s.os.width.bytes + imm) (SegReg.loaded sel d) (newIp s.os.width v)) := by
    rw [exec_retFar s i imm hi, conclude_next, retFarBy_same s imm x ⟨hprot, hlimit, hx⟩ hrpl]
    exact retSameLevel_inside s imm sel hpasses hv hin
  have hmode := exec_mode s _ i runs
  refine ⟨_, runs, newIp_toNat s.os v, rfl, ?_, fun q hq => s.afterRet_seg_other _ _ _ q hq, s.afterRet_spBecomes _ _ _,
    s.afterRet_regsKept _ _ _, rfl, s.afterRet_memKept _ _ _, s.afterRet_systemKept _ _ _, s.afterRet_ends _ _ _⟩
  rw [State.cpl_prot (hmode.trans hprot)]
  exact hrpl

/-- Settles O33: the frame is read, both selectors pass, the offset is inside; the data segments by R241. -/
theorem retOuterLevelCompletes : Obligations.RetOuterLevelCompletes := by
  unfold Obligations.RetOuterLevelCompletes
  intro s i imm v x y z d e hi hprot hlimit hframe hv hx hy hz sel ssel houter hle hdesc hcode hpresent hlevel hsle hsdesc hw
    hsp hsdpl hsrpl hin
  have hcs : s.returnCode sel = .ok d := s.returnCode_passes sel hle hdesc (not_badReturnCode hcode hlevel) hpresent
  have hss : s.returnStack ssel (rpl sel) = .ok e := (s.returnStack_ok ssel _ e).2
    ⟨nullSel_of_le hsle, hsdesc, hw, hsrpl, hsdpl, hsp⟩
  have runs : exec i s = .next (s.afterRetOuter imm (SegReg.loaded sel d) (SegReg.loaded ssel e) (y.setWidth 32)
      (newIp s.os.width v)) := by
    rw [exec_retFar s i imm hi, conclude_next, retFarBy_outer s imm x ⟨hprot, hlimit, hx⟩ houter,
      retOuterLevel_of_frame s imm sel v y z hframe hz hy hv, hcs, Res.ok_bind, hss, Res.ok_bind, hin]
    rfl
  have hmode := exec_mode s _ i runs
  obtain ⟨hregs, hflags, hmem, hsystem⟩ := s.afterRetOuter_kept imm (SegReg.loaded sel d) (SegReg.loaded ssel e)
    (y.setWidth 32) (newIp s.os.width v)
  refine ⟨_, runs, newIp_toNat s.os v, State.cpl_prot (hmode.trans hprot), rfl, s.afterRetOuter_ss _ _ _ _ _, fun himm => ?_,
    fun q hq hq' => ?_, hregs, hflags, hmem, hsystem, rfl, rfl⟩
  · rw [s.afterRetOuter_esp _ _ _ _ _ himm, State.setSp_os_esp, setWidth_extract_low]
  · obtain ⟨slot, hslot⟩ := s.afterRetOuter_data imm (SegReg.loaded sel d) (SegReg.loaded ssel e) (y.setWidth 32)
      (newIp s.os.width v) q hq hq'
    rw [hslot]
    exact s.afterOuter_cases (s.seg q) (rpl sel) slot

/-- What stops the check of the return selector stops RET far, to the same level and to an outer one whose frame is read. -/
theorem retFarBy_stops_of_returnCode {s : State} {imm : Nat} {x : BitVec s.os.width.bits} (hframe : s.farFrame x) {e : Stop}
    (hread : rpl (x.extractLsb' 0 16) = s.cpl ∨ ∃ v y z, s.outerFrame imm x ∧ s.stackRead 0 s.os.width = .ok v ∧
      s.stackRead (2 * s.os.width.bytes + imm) s.os.width = .ok y ∧
      s.stackRead (3 * s.os.width.bytes + imm) s.os.width = .ok z)
    (h : s.returnCode (x.extractLsb' 0 16) = .error e) : retFarBy imm s = .error e := by
  obtain hsame | ⟨v, y, z, ⟨_, houter, hlimit⟩, hv, hy, hz⟩ := hread
  · rw [retFarBy_same s imm x hframe hsame, retSameLevel_stops s imm _ h]
  · rw [retFarBy_outer s imm x hframe houter, retOuterLevel_of_frame s imm _ v y z hlimit hz hy hv, h]
    rfl

/-- Settles O34: the dispatch on the level, then the checks of the selectors in their order, then that of the offset. -/
theorem retInwardTraps : Obligations.RetInwardTraps := by
  unfold Obligations.RetInwardTraps
  intro s i imm x hi hframe sel raised pageFaults outer bad
  obtain ⟨hprot, -, -⟩ := id hframe
  have hmode : s.mode ≠ .real := by rw [hprot]; decide
  have raises : ∀ {e : Exc} {c : Word}, retFarBy imm s = raise e c → raised e c := exec_raise (shapeOf_retFar hi) hmode
  have faults : ∀ {c : Word} {lin : Dword}, retFarBy imm s = raisePf c lin → pageFaults c lin :=
    exec_raisePf (shapeOf_retFar hi) hmode
  refine ⟨fun hin => raises (retFarBy_inward s imm x hframe hin), fun hread => ?_, ?_, ?_⟩
  · have stops : ∀ {e : Stop}, s.returnCode sel = .error e → retFarBy imm s = .error e :=
      retFarBy_stops_of_returnCode hframe hread
    exact ⟨fun hnull => raises (stops (s.returnCode_null sel hnull)),
      fun hle hdesc => raises (stops (s.returnCode_outside sel hle hdesc)),
      fun c lin hle hdesc => faults (stops (s.returnCode_pageFault sel hle hdesc)),
      fun d hle hdesc => ⟨fun hbad => raises (stops (s.returnCode_bad sel hle hdesc hbad)),
        fun hgood hpresent => raises (stops (s.returnCode_absent sel hle hdesc hgood hpresent))⟩⟩
  · intro v d hsame hle hdesc hgood hpresent hv hout
    refine raises ?_
    rw [retFarBy_same s imm x hframe hsame]
    exact retSameLevel_outside s imm sel (s.returnCode_passes sel hle hdesc hgood hpresent) hv hout
  · rintro v y z d ⟨⟨_, houter, hlimit⟩, hv, hy, hz⟩ hle hdesc hgood hpresent ssel
    have hrun : retFarBy imm s = s.returnStack ssel (rpl sel) >>= fun e => stopIf (!d.inLimit v.toNat 1) (raise .gp 0) >>= fun _ =>
        pure (s.afterRetOuter imm (SegReg.loaded sel d) (SegReg.loaded ssel e) (y.setWidth 32) (newIp s.os.width v)) := by
      rw [retFarBy_outer s imm x hframe houter, retOuterLevel_of_frame s imm sel v y z hlimit hz hy hv,
        s.returnCode_passes sel hle hdesc hgood hpresent, Res.ok_bind]
    have stops : ∀ {e : Stop}, s.returnStack ssel (rpl sel) = .error e → retFarBy imm s = .error e := fun h => by
      rw [hrun, h]; rfl
    exact ⟨fun hnull => raises (stops (s.returnStack_null ssel _ hnull)),
      fun hsle hsdesc => raises (stops (s.returnStack_outside ssel _ hsle hsdesc)),
      fun c lin hsle hsdesc => faults (stops (s.returnStack_pageFault ssel _ hsle hsdesc)),
      fun e hsle hsdesc => ⟨fun hbad => raises (stops (s.returnStack_bad ssel _ hsle hsdesc hbad)),
        fun hsgood habsent => raises (stops (s.returnStack_absent ssel _ hsle hsdesc hsgood habsent)),
        fun hsgood hspresent hout => raises (by
          rw [hrun, s.returnStack_passes ssel _ hsle hsdesc hsgood hspresent, Res.ok_bind, hout]
          rfl)⟩⟩

end Sys2Proof.Machine
end

section
/-! The pushes: the eight items of PUSHA and PUSHAD stored one below another; the flag images; the low stack of real mode. -/

namespace Sys2Proof.Machine

/-! ## What a push keeps (20_memory R90) -/

/-- What pushes keep: all but memory and the stack pointer, of which a 16-bit one keeps its high half. -/
structure PushKept (s t : State) : Prop where
  regs : regsKept [.n4] s t
  eflags : t.eflags = s.eflags
  segs : t.segs = s.segs
  system : systemKept s t
  cur : t.cur = s.cur
  high : s.stackSize = .s16 → t.regs.esp.extractLsb' 16 16 = s.regs.esp.extractLsb' 16 16

theorem PushKept.refl (s : State) : PushKept s s where
  regs _ _ := rfl
  eflags := rfl
  segs := rfl
  system := ⟨rfl, rfl, rfl, rfl, rfl, rfl, rfl, rfl, rfl, rfl, rfl, rfl⟩
  cur := rfl
  high _ := rfl

/-- The stack address size is among what pushes keep. -/
theorem PushKept.stackSize {s t : State} (h : PushKept s t) : t.stackSize = s.stackSize := by
  obtain ⟨hcr0, _⟩ := h.system
  have hmode : t.mode = s.mode := State.mode_congr hcr0 (by rw [h.eflags])
  unfold State.stackSize State.as State.defaultSize
  rw [hmode, h.segs, h.cur]

theorem systemKept_trans {s t u : State} (h : systemKept s t) (h' : systemKept t u) : systemKept s u := by
  obtain ⟨h1, h2, h3, h4, h5, h6, h7, h8, h9, h10, h11, h12⟩ := h
  simpa only [systemKept, h1, h2, h3, h4, h5, h6, h7, h8, h9, h10, h11, h12] using h'

theorem PushKept.trans {s t u : State} (h : PushKept s t) (h' : PushKept t u) : PushKept s u where
  regs r hr := (h'.regs r hr).trans (h.regs r hr)
  eflags := h'.eflags.trans h.eflags
  segs := h'.segs.trans h.segs
  system := systemKept_trans h.system h'.system
  cur := h'.cur.trans h.cur
  high hs := (h'.high (h.stackSize.trans hs)).trans (h.high hs)

/-- A push keeps all but memory and the stack pointer, which it moves below its item. -/
theorem State.push_kept {s t : State} {w : Width} {v : BitVec w.bits} (h : s.push w v = .ok t) :
    PushKept s t ∧ spBecomes s t (s.spPlus (- BitVec.ofNat 32 w.bytes)) := by
  obtain ⟨_, ps, _, rfl⟩ := (s.push_ok t w v).1 h
  refine ⟨?_, setSp_spBecomes s _ _ (s.pokes_regs ps _)⟩
  exact {
    regs := fun r hr => (setSp_regsKept _ _ _ r hr).trans (by rw [s.pokes_regs])
    eflags := s.pokes_eflags ps _
    segs := s.pokes_segs ps _
    system := by simp [systemKept]
    cur := s.pokes_cur ps _
    high := fun hs => by
      rw [hs, State.setSp_s16_esp, s.pokes_regs]
      exact BitVec.extractLsb'_append_eq_left }

/-- A push stores the bytes of its item at the addresses of its access, and no other byte. -/
theorem State.push_bytes {s t : State} {w : Width} {v : BitVec w.bits} {ps : List Nat} (h : s.push w v = .ok t)
    (haccess : s.access .ss (s.spPlus (- BitVec.ofNat 32 w.bytes)).toNat w.bytes .write = .ok ps)
    (hwf : Memory.wf s.mem = true) (hps : ps.Nodup) :
    Memory.wf t.mem = true ∧ ps.map (Memory.get t.mem) = bytesOf w v ∧ memKept ps s t := by
  obtain ⟨_, qs, hqs, rfl⟩ := (s.push_ok t w v).1 h
  cases hqs.symm.trans haccess
  obtain ⟨hlen, hlt⟩ := s.access_ok _ _ _ _ _ haccess
  refine ⟨s.pokes_wf ps _ hwf hlt, ?_, fun a ha => s.pokes_get_other ps _ a ha⟩
  rw [State.setSp_mem, s.pokes_get ps _ hwf hps hlt (by rw [hlen, valueBytes_length]), valueBytes_eq]

/-- The bytes at addresses that a change leaves alone are as before. -/
theorem map_get_of_memKept {s t : State} {ps qs : List Nat} (h : memKept ps s t) (hdisjoint : ∀ a ∈ qs, a ∉ ps) :
    qs.map (Memory.get t.mem) = qs.map (Memory.get s.mem) :=
  List.map_congr_left fun a ha => h a (hdisjoint a ha)

/-! ## The items of one instruction, one below another (40_stack R171) -/

/-- Items that may be stored at distinct bytes are pushed: each lies at its bytes, and nothing but memory and the stack pointer
changes. -/
theorem pushItems_ok {s : State} {w : Width} (vs : List (BitVec w.bits)) (qs : List (List Nat)) (hlen : qs.length = vs.length)
    (n : Nat) (u : State) (hu : Pushed s w n u) (hkept : PushKept s u) (hwf : Memory.wf u.mem = true)
    (haccess : ∀ j q, qs[j]? = some q →
      s.access .ss (s.spPlus (- BitVec.ofNat 32 (w.bytes * (n + j + 1)))).toNat w.bytes .write = .ok q)
    (hnodup : qs.flatten.Nodup) :
    ∃ t, State.pushItems w vs u = .ok t ∧ PushKept s t ∧
      (vs ≠ [] → spBecomes s t (s.spPlus (- BitVec.ofNat 32 (w.bytes * (n + vs.length))))) ∧
      qs.map (fun q => q.map (Memory.get t.mem)) = vs.map (bytesOf w) ∧ memKept qs.flatten u t := by
  induction vs generalizing qs n u with
  | nil =>
    obtain rfl : qs = [] := List.eq_nil_of_length_eq_zero hlen
    exact ⟨u, rfl, hkept, fun h => absurd rfl h, rfl, fun _ _ => rfl⟩
  | cons v vs ih =>
    obtain ⟨q, qs, rfl⟩ : ∃ q qs', qs = q :: qs' := by
      cases qs with
      | nil => cases hlen
      | cons q qs => exact ⟨q, qs, rfl⟩
    rw [List.flatten_cons, List.nodup_append] at hnodup
    obtain ⟨hq, hqs, hdisjoint⟩ := hnodup
    have hfirst := haccess 0 q rfl
    have hufirst : u.access .ss (u.spPlus (- BitVec.ofNat 32 w.bytes)).toNat w.bytes .write = .ok q := by
      rw [hu.top_one, hu.checks.access]; exact hfirst
    obtain ⟨t, hpush⟩ : ∃ t, u.push w v = .ok t :=
      ⟨_, (u.push_ok _ w v).2 ⟨u.lowStack_of_access _ _ _ hufirst, q, hufirst, rfl⟩⟩
    obtain ⟨hkept', hsp⟩ := State.push_kept hpush
    obtain ⟨hwf', hbytes, hmem⟩ := State.push_bytes hpush hufirst hwf hq
    obtain ⟨t', hrest, hkept'', hsp', hitems, hmem'⟩ := ih qs (Nat.succ.inj hlen) (n + 1) t (hu.push hpush)
      (hkept.trans hkept') hwf' (fun j q' hj => by
        have := haccess (j + 1) q' hj
        rwa [show n + (j + 1) + 1 = n + 1 + j + 1 by omega] at this) hqs
    refine ⟨t', Res.bind_ok.2 ⟨t, hpush, hrest⟩, hkept'', fun _ => ?_, ?_, fun a ha => ?_⟩
    · by_cases hlast : vs = []
      · subst hlast
        cases hrest
        rw [hu.top_one] at hsp
        unfold spBecomes at hsp ⊢
        rw [hkept.stackSize] at hsp
        rw [hsp]
        cases hs : s.stackSize with
        | s32 => rfl
        | s16 => exact congrArg (· ++ _) (hkept.high hs)
      · have := hsp' hlast
        rwa [show n + 1 + vs.length = n + (v :: vs).length by rw [List.length_cons]; omega] at this
    · rw [List.map_cons, List.map_cons, hitems, map_get_of_memKept hmem' fun a ha ha' => hdisjoint a ha a ha' rfl, hbytes]
    · rw [List.flatten_cons, List.mem_append, not_or] at ha
      exact (hmem' a ha.2).trans (hmem a ha.1)

/-! ## The flag images (40_stack R173, R174) -/

/-- Every bit of the image but 17:16 is that of EFLAGS. -/
theorem State.flagsImage_bit (s : State) (w : Width) (b : Nat) (hb : b < w.bits) (h16 : b ≠ 16) (h17 : b ≠ 17) :
    (s.flagsImage w).getLsbD b = s.eflags.getLsbD b := by
  have mask : ∀ b : Fin 32, b.1 ≠ 16 → b.1 ≠ 17 → (0x30000 : Dword).getLsbD b.1 = false := by decide
  cases w with
  | byte | word => simp [State.flagsImage, hb]
  | dword =>
    have hfree : (0x30000 : Dword).getLsbD b = false := mask ⟨b, hb⟩ h16 h17
    have hkept : (~~~ 0x30000#32).getLsbD b = true := by
      rw [BitVec.getLsbD_not, show (0x30000#32).getLsbD b = false from hfree, decide_eq_true (show b < 32 from hb)]; rfl
    show s.pushfdImage.getLsbD b = _
    unfold State.pushfdImage
    split
    · rfl
    · rw [BitVec.getLsbD_or, BitVec.getLsbD_and, BitVec.getLsbD_and, hfree, hkept, Bool.and_true, Bool.and_false,
        Bool.or_false]

/-- Where VM and RF are 0 the image is EFLAGS. -/
theorem State.flagsImage_eq (s : State) (w : Width) (hvm : flag s.eflags .vm = false) (hrf : flag s.eflags .rf = false) :
    s.flagsImage w = s.eflags.setWidth w.bits := by
  have mask : ∀ b : Fin 32, (0x30000#32).getLsbD b.1 = true → b.1 = 16 ∨ b.1 = 17 := by decide
  cases w with
  | byte | word => rfl
  | dword =>
    have hclear : s.eflags &&& 0x30000 = 0 := by
      apply BitVec.eq_of_getLsbD_eq
      intro b hb
      show (s.eflags &&& 0x30000#32).getLsbD b = (0#32).getLsbD b
      rw [BitVec.getLsbD_and, BitVec.getLsbD_zero]
      cases hm : (0x30000#32).getLsbD b with
      | false => rw [Bool.and_false]
      | true =>
        rw [Bool.and_true]
        obtain rfl | rfl := mask ⟨b, hb⟩ hm
        · exact hrf
        · exact hvm
    show s.pushfdImage = _
    rw [State.pushfdImage, if_pos hclear]
    exact (BitVec.setWidth_eq _).symm

/-- A flag instruction sensitive to IOPL is not trapped (60_exceptions R428). -/
theorem State.v86Trapped_eq_false (s : State) (h : ¬(s.mode = .v86 ∧ s.iopl ≠ 3)) : s.v86Trapped = false := by
  rw [State.v86Trapped, Bool.and_eq_false_iff, beq_eq_false_iff_ne, bne_eq_false_iff_eq]
  tauto

theorem State.v86Trapped_eq_true (s : State) (hmode : s.mode = .v86) (h : s.iopl ≠ 3) : s.v86Trapped = true := by
  rw [State.v86Trapped, hmode, bne_iff_ne.2 h]; rfl

theorem shapeOf_pushFlags {i : Instr} {w : Width} (hi : (i, w) ∈ [(Instr.pushf, Width.word), (Instr.pushfd, Width.dword)]) :
    shapeOf i = some (.pushFlags w) := by
  obtain ⟨rfl, rfl⟩ | ⟨rfl, rfl⟩ : i = .pushf ∧ w = .word ∨ i = .pushfd ∧ w = .dword := by simpa using hi
  · rfl
  · rfl

theorem shapeOf_pushAll {i : Instr} {w : Width} (hi : (i, w) ∈ [(Instr.pusha, Width.word), (Instr.pushad, Width.dword)]) :
    shapeOf i = some (.pushAll w) := by
  obtain ⟨rfl, rfl⟩ | ⟨rfl, rfl⟩ : i = .pusha ∧ w = .word ∨ i = .pushad ∧ w = .dword := by simpa using hi
  · rfl
  · rfl

/-! ## The low stack (40_stack R170) -/

/-- A 16-bit pointer below an item of `n` bytes. -/
theorem State.spPlus_neg_toNat (s : State) (hs : s.stackSize = .s16) (n : Nat) (hn : n ≤ 0x10000) :
    (s.spPlus (- BitVec.ofNat 32 n)).toNat = ((s.regs.esp.extractLsb' 0 16).toNat + (0x10000 - n)) % 0x10000 := by
  rw [s.spPlus_s16 _ hs]
  simp only [BitVec.toNat_setWidth, BitVec.toNat_add, BitVec.extractLsb'_toNat, Nat.shiftRight_zero, BitVec.toNat_neg,
    BitVec.toNat_ofNat]
  omega

/-- An item reaches past FFFFh, as a statement says it. -/
theorem State.lowItem_one (s : State) (w : Width) : s.lowItem w 1 ↔
    s.mode = .real ∧ 0xFFFF < (s.spPlus (- BitVec.ofNat 32 w.bytes)).toNat + w.bytes - 1 := by
  rw [State.lowItem, Nat.mul_one]

theorem State.v86Trapped_of_real (s : State) (h : s.mode = .real) : s.v86Trapped = false :=
  s.v86Trapped_eq_false fun hv => by rw [h] at hv; exact absurd hv.1 (by decide)

/-- PUSHF and PUSHFD in real mode end as the push of their image does. -/
theorem exec_pushFlags_lowStack {s : State} {i : Instr} {w : Width} (hi : shapeOf i = some (.pushFlags w))
    (hlow : s.lowItem w 1) : exec i s = .fault .shutdown := by
  rw [exec_shape i _ s hi, conclude_shutdown]
  show pushFlags w (s.flagsImage w) s = _
  rw [pushFlags, s.v86Trapped_of_real hlow.1]
  exact pushValue_error.2 (.inl ⟨hlow, rfl⟩)

/-- PUSHA and PUSHAD end as the push of their first item does. -/
theorem exec_pushAll_lowStack {s : State} {i : Instr} {w : Width} (hi : shapeOf i = some (.pushAll w))
    (hlow : s.lowItem w 1) : exec i s = .fault .shutdown := by
  rw [exec_shape i _ s hi, conclude_shutdown]
  show pushAll w s = _
  have first := (Pushed.none s w).push_error (v := s.reg w .n0) (e := .shutdown)
  rw [Nat.zero_add] at first
  exact Res.bind_error.2 (.inl (first.2 (.inl ⟨hlow, rfl⟩)))

/-! ## The statements of the family -/

/-- Settles O15: the eight items pushed, read from the last pushed to the first. -/
theorem pushAllCompletes : Obligations.PushAllCompletes := by
  unfold Obligations.PushAllCompletes
  intro s i w ps hi hwf haccess hnodup
  have hrev : ∀ α, ∀ f : Nat → α, (List.range 8).map f = [f 0, f 1, f 2, f 3, f 4, f 5, f 6, f 7] := fun _ _ => rfl
  have hflat : (List.range 8).flatMap ps = [ps 0, ps 1, ps 2, ps 3, ps 4, ps 5, ps 6, ps 7].flatten := by
    rw [← hrev, List.flatMap_def]
  have hperm : [ps 7, ps 6, ps 5, ps 4, ps 3, ps 2, ps 1, ps 0].flatten.Perm ((List.range 8).flatMap ps) := by
    rw [hflat]
    exact (List.reverse_perm [ps 0, ps 1, ps 2, ps 3, ps 4, ps 5, ps 6, ps 7]).flatten
  obtain ⟨t, hpush, hkept, hsp, hitems, hmem⟩ := pushItems_ok (s.allItems w) [ps 7, ps 6, ps 5, ps 4, ps 3, ps 2, ps 1, ps 0] rfl
    0 s (.none s w) (.refl s) hwf (fun j q hj => by
      obtain ⟨hlt, rfl⟩ : j < 8 ∧ ps (7 - j) = q := by
        have hlt : j < 8 := (List.getElem?_eq_some_iff.1 hj).1
        refine ⟨hlt, ?_⟩
        interval_cases j <;> exact Option.some.inj hj
      have := haccess (7 - j) (by omega)
      rwa [show 8 - (7 - j) = 0 + j + 1 by omega] at this) (hperm.nodup_iff.2 hnodup)
  refine ⟨t.advance, ?_, hsp (by simp [State.allItems]), hkept.regs, ?_, fun a ha => hmem a fun h => ha (hperm.mem_iff.1 h),
    hkept.eflags, hkept.segs, hkept.system, congrArg Cur.next hkept.cur, rfl, rfl⟩
  · rw [exec_shape i _ s (shapeOf_pushAll hi), conclude_next]
    show pushAll w s = _
    rw [pushAll_eq, hpush]
    rfl
  · have := congrArg List.reverse hitems
    simpa [State.allItems, hrev] using this

/-- Settles O16: the push of the flag image, which is not trapped. -/
theorem pushFlagsCompletes : Obligations.PushFlagsCompletes := by
  unfold Obligations.PushFlagsCompletes
  intro s i w ps hi hwf htrap haccess hps
  refine ⟨s.afterPush w (s.flagsImage w) ps, s.flagsImage w, ?_, s.flagsImage_bit w, s.flagsImage_eq w,
    s.afterPush_spBecomes _ _ ps, s.afterPush_regsKept _ _ ps, s.afterPush_bytes _ _ ps hwf hps haccess,
    s.afterPush_memKept _ _ ps, s.afterPush_eflags _ _ ps, s.afterPush_segs _ _ ps, s.afterPush_systemKept _ _ ps,
    s.afterPush_completed _ _ ps⟩
  rw [exec_shape i _ s (shapeOf_pushFlags hi), conclude_next]
  show pushFlags w (s.flagsImage w) s = _
  rw [pushFlags, s.v86Trapped_eq_false htrap]
  exact pushValue_of_access s w _ ps haccess

/-- Settles O17: the first push of each ends in Shutdown; a 16-bit pointer in integers. -/
theorem lowStackShutsDown : Obligations.LowStackShutsDown := by
  unfold Obligations.LowStackShutsDown
  intro s hreal past
  have low : ∀ w, past w → s.lowItem w 1 := fun w hpast => (s.lowItem_one w).2 ⟨hreal, hpast⟩
  refine ⟨fun f v hitem hpast => ?_, fun hpast => ⟨exec_pushAll_lowStack rfl (low _ hpast), exec_pushFlags_lowStack rfl (low _ hpast)⟩,
    fun hpast => ⟨exec_pushAll_lowStack rfl (low _ hpast), exec_pushFlags_lowStack rfl (low _ hpast)⟩, ?_⟩
  · rw [exec_push, conclude_shutdown]
    exact Res.bind_error.2 (.inr ⟨v, hitem, pushValue_error.2 (.inl ⟨low _ hpast, rfl⟩)⟩)
  · intro hs sp
    have hsp : sp < 0x10000 := (s.regs.esp.extractLsb' 0 16).isLt
    have hword := s.spPlus_neg_toNat hs 2 (by decide)
    have hdword := s.spPlus_neg_toNat hs 4 (by decide)
    constructor
    · show 0xFFFF < (s.spPlus (- BitVec.ofNat 32 2)).toNat + 2 - 1 ↔ _
      rw [hword]
      omega
    · show 0xFFFF < (s.spPlus (- BitVec.ofNat 32 4)).toNat + 4 - 1 ↔ _
      rw [hdword]
      omega

end Sys2Proof.Machine
end

section
/-! The pops: a general register, memory, a segment register with the checks of its selector row by row, all registers, the
flags. -/

namespace Sys2Proof.Machine

/-! ## POP of a general register (40_stack R152) -/

/-- An operand-size register is its own home. -/
theorem regHome_os (os : OSize) (r : RegNum) : regHome os.width r = r := by cases os <;> rfl

/-- Past an item the pointer moves, and no other register changes. -/
theorem State.release_regsKept (s : State) (b : Nat) : regsKept [.n4] s (s.release b) := setSp_regsKept s _ _

theorem State.release_spBecomes (s : State) (b : Nat) : spBecomes s (s.release b) (s.spPlus (BitVec.ofNat 32 b)) :=
  setSp_spBecomes s s _ rfl

/-- What POP of a general register leaves outside the general registers. -/
theorem State.popToReg_kept (s : State) (w : Width) (r : RegNum) (v : BitVec w.bits) :
    ((s.popToReg w r v).eflags = s.eflags ∧ (s.popToReg w r v).segs = s.segs) ∧ memKept [] s (s.popToReg w r v) ∧
      systemKept s (s.popToReg w r v).advance ∧ completed s (s.popToReg w r v).advance := by
  unfold State.popToReg
  split
  · split
    · exact ⟨⟨rfl, rfl⟩, fun _ _ => rfl, by simp [systemKept], rfl, rfl, rfl⟩
    · exact ⟨⟨rfl, rfl⟩, fun _ _ => rfl, by simp [systemKept], rfl, rfl, rfl⟩
  · exact ⟨⟨rfl, rfl⟩, fun _ _ => rfl, by simp [systemKept], rfl, rfl, rfl⟩

section
variable (s : State) (r : RegNum) (v : BitVec s.os.width.bits)

/-- The item popped into another register than (E)SP. -/
theorem State.popToReg_other (hr : r ≠ .n4) :
    regBecomes s (s.popToReg s.os.width r v).advance s.os.width r v ∧
      spBecomes s (s.popToReg s.os.width r v).advance (s.spPlus (BitVec.ofNat 32 s.os.width.bytes)) ∧
      regsKept [r, .n4] s (s.popToReg s.os.width r v).advance := by
  rw [State.popToReg, if_neg hr]
  have hregs : (((s.release s.os.width.bytes).setReg s.os.width r v).advance).regs =
      (s.release s.os.width.bytes).regs.write s.os.width r v := rfl
  have hother : ∀ q, q ≠ r → ((s.release s.os.width.bytes).regs.write s.os.width r v).get q =
      (s.release s.os.width.bytes).regs.get q := fun q hq =>
    Regs.get_write_other _ _ _ _ _ (by rwa [regHome_os])
  refine ⟨⟨Regs.read_write_same _ _ _ _, fun hword => ?_⟩, ?_, fun q hq => ?_⟩
  · rw [hregs]
    generalize s.os.width = w at v hword
    subst hword
    rw [Regs.get_write_word_high]
    exact congrArg _ (s.release_regsKept _ r (by simpa using hr))
  · have hesp : ((s.release s.os.width.bytes).regs.write s.os.width r v).esp = (s.release s.os.width.bytes).regs.esp :=
      hother .n4 hr.symm
    have hsp := s.release_spBecomes s.os.width.bytes
    unfold spBecomes at hsp ⊢
    rw [hregs, hesp, hsp]
  · rw [List.mem_cons, not_or] at hq
    rw [hregs, hother q hq.1]
    exact s.release_regsKept _ q hq.2

/-- The item popped into (E)SP: what the parameter leaves (log 3). -/
theorem State.popToReg_sp :
    regsKept [.n4] s (s.popToReg s.os.width .n4 v).advance ∧
      match Config.popSpOrder with
      | .source => spBecomes (s.setReg s.os.width .n4 v) (s.popToReg s.os.width .n4 v).advance
          ((s.setReg s.os.width .n4 v).spPlus (BitVec.ofNat 32 s.os.width.bytes))
      | .incrementFirst => (s.popToReg s.os.width .n4 v).advance.reg s.os.width .n4 = v := by
  have hwrite : ∀ g : Regs, ∀ q, q ∉ [RegNum.n4] → (g.write s.os.width .n4 v).get q = g.get q := fun g q hq =>
    Regs.get_write_other _ _ _ _ _ (by rw [regHome_os]; simpa using hq)
  rw [State.popToReg, if_pos rfl]
  cases Config.popSpOrder with
  | source =>
    exact ⟨fun q hq => ((s.setReg s.os.width .n4 v).release_regsKept _ q hq).trans (hwrite _ q hq),
      (s.setReg s.os.width .n4 v).release_spBecomes _⟩
  | incrementFirst =>
    exact ⟨fun q hq => (hwrite _ q hq).trans (s.release_regsKept _ q hq), Regs.read_write_same _ _ _ _⟩

end

/-! ## POP of a segment register: what it leaves (40_stack R153–R155) -/

/-- What POP of a segment register leaves that becomes `g`. -/
def State.afterPopSeg (s : State) (r : SReg) (g : SegReg) : State :=
  { ((s.release s.os.width.bytes).setSeg r g).advance with inhibit := decide (r = .ss) }

section
variable (s : State) (r : SReg) (g : SegReg)

theorem State.afterPopSeg_same : (s.afterPopSeg r g).seg r = g := SegRegs.get_set_same _ _ _

theorem State.afterPopSeg_other (q : SReg) (hq : q ≠ r) : (s.afterPopSeg r g).seg q = s.seg q :=
  SegRegs.get_set_other _ _ _ _ hq

/-- Beside the segment register and the inhibit, POP of a segment register moves the pointer past its item and completes. -/
theorem State.afterPopSeg_kept :
    spBecomes s (s.afterPopSeg r g) (s.spPlus (BitVec.ofNat 32 s.os.width.bytes)) ∧ regsKept [.n4] s (s.afterPopSeg r g) ∧
      (s.afterPopSeg r g).eflags = s.eflags ∧ memKept [] s (s.afterPopSeg r g) ∧ systemKept s (s.afterPopSeg r g) ∧
      (s.afterPopSeg r g).eip = s.cur.next ∧ (s.afterPopSeg r g).cur = Cur.idle ∧
      (s.afterPopSeg r g).inhibit = decide (r = .ss) :=
  ⟨s.release_spBecomes _, s.release_regsKept _, rfl, fun _ _ => rfl,
    ⟨rfl, rfl, rfl, rfl, rfl, rfl, rfl, rfl, rfl, rfl, rfl, rfl⟩, rfl, rfl, rfl⟩

end

theorem shapeOf_segPop {i : Instr} {r : SReg} (hi : (i, r) ∈ segPops) : shapeOf i = some (.popSeg r) := by
  simp only [segPops, List.mem_cons, Prod.mk.injEq, List.not_mem_nil, or_false] at hi
  obtain ⟨rfl, rfl⟩ | ⟨rfl, rfl⟩ | ⟨rfl, rfl⟩ | ⟨rfl, rfl⟩ | ⟨rfl, rfl⟩ := hi <;> rfl

section
variable {s : State} {r : SReg} {v : BitVec s.os.width.bits} (hv : s.stackRead 0 s.os.width = .ok v)
include hv

/-- With the item read, POP of a segment register does what the load of its selector does. -/
theorem popSegment_of_read : popSegment r s = s.loadSeg r (v.extractLsb' 0 16) >>= fun g => pure (s.afterPopSeg r g) := by
  rw [popSegment, popSeg, hv, ← itemSelector_eq]
  simp only [Res.ok_bind, bind_assoc, pure_bind]
  congr 1
  funext g
  by_cases hr : r = .ss
  · rw [if_pos hr, State.afterPopSeg, decide_eq_true hr]
  · rw [if_neg hr, State.afterPopSeg, decide_eq_false hr]
    rfl

theorem exec_segPop_next {i : Instr} {g : SegReg} (hi : (i, r) ∈ segPops) (hload : s.loadSeg r (v.extractLsb' 0 16) = .ok g) :
    exec i s = .next (s.afterPopSeg r g) := by
  rw [exec_shape i _ s (shapeOf_segPop hi), conclude_next]
  show popSegment r s = _
  rw [popSegment_of_read hv, hload]
  rfl

/-- What stops the load of the selector stops the POP. -/
theorem popSegment_stops {e : Stop} (hload : s.loadSeg r (v.extractLsb' 0 16) = .error e) : popSegment r s = .error e := by
  rw [popSegment_of_read hv, hload]
  rfl

end

theorem State.loadSeg_of_ne_prot {s : State} (h : s.mode ≠ .prot) (r : SReg) (sel : Word) :
    s.loadSeg r sel = .ok ((s.seg r).loadedReal sel) := by
  unfold State.loadSeg
  split
  · exact absurd ‹s.mode = .prot› h
  · rfl

theorem State.loadSeg_ss {s : State} (h : s.mode = .prot) (sel : Word) : s.loadSeg .ss sel = s.loadSsProt sel := by
  rw [State.loadSeg, h]
  exact if_pos rfl

theorem State.loadSeg_data {s : State} (h : s.mode = .prot) {r : SReg} (hr : r ≠ .ss) (sel : Word) :
    s.loadSeg r sel = s.loadDataProt r sel := by
  rw [State.loadSeg, h]
  exact if_neg hr

/-! ## The checks on a selector for SS (R155 rows 1, 3, 4, 6, 7) -/

section
variable (s : State) (sel : Word)

theorem State.loadSsProt_null (h : sel.toNat < 4) : s.loadSsProt sel = raise .gp 0 := by
  rw [State.loadSsProt, (nullSel_iff sel).2 h]
  rfl

variable (h : 4 ≤ sel.toNat)
include h

theorem State.loadSsProt_level (hrpl : rpl sel ≠ s.cpl) : s.loadSsProt sel = raise .gp (selCode sel) := by
  rw [State.loadSsProt, nullSel_of_le h, bne_iff_ne.2 hrpl]
  rfl

variable (hrpl : rpl sel = s.cpl)
include hrpl

/-- Past the two checks of the selector its descriptor is read. -/
theorem State.loadSsProt_descOrGp : s.loadSsProt sel = s.descOrGp sel >>= fun d => do
    stopIf (!d.isWritable || d.dpl != s.cpl) (raise .gp (selCode sel))
    stopIf (!d.present) (raise .ss (selCode sel))
    return SegReg.loaded sel d := by
  rw [State.loadSsProt, nullSel_of_le h, bne_eq_false_iff_eq.2 hrpl]
  rfl

theorem State.loadSsProt_pageFault {c : Word} {lin : Dword} (hdesc : s.desc sel = some (.pageFault c lin)) :
    s.loadSsProt sel = raisePf c lin := by
  rw [s.loadSsProt_descOrGp sel h hrpl, s.descOrGp_pageFault sel hdesc]
  rfl

end

/-- A selector for SS outside its table, or at another level, has one code (R155 rows 3, 4). -/
theorem State.loadSsProt_outside (s : State) (sel : Word) (h : 4 ≤ sel.toNat) (hdesc : s.desc sel = none) :
    s.loadSsProt sel = raise .gp (selCode sel) := by
  by_cases hrpl : rpl sel = s.cpl
  · rw [s.loadSsProt_descOrGp sel h hrpl, s.descOrGp_none sel hdesc]
    rfl
  · exact s.loadSsProt_level sel h hrpl

theorem State.loadSsProt_bad (s : State) (sel : Word) (h : 4 ≤ sel.toNat) {d : Descriptor}
    (hdesc : s.desc sel = some (.found d)) (hbad : rpl sel ≠ s.cpl ∨ d.isWritable = false ∨ d.dpl ≠ s.cpl) :
    s.loadSsProt sel = raise .gp (selCode sel) := by
  by_cases hrpl : rpl sel = s.cpl
  · have hcheck : (!d.isWritable || d.dpl != s.cpl) = true := by
      obtain hw | hd := hbad.resolve_left (not_not_intro hrpl)
      · rw [hw]; rfl
      · rw [bne_iff_ne.2 hd, Bool.or_true]
    rw [s.loadSsProt_descOrGp sel h hrpl, s.descOrGp_found sel hdesc, Res.ok_bind, hcheck]
    rfl
  · exact s.loadSsProt_level sel h hrpl

theorem State.loadSsProt_absent (s : State) (sel : Word) (h : 4 ≤ sel.toNat) {d : Descriptor}
    (hdesc : s.desc sel = some (.found d)) (hgood : ¬(rpl sel ≠ s.cpl ∨ d.isWritable = false ∨ d.dpl ≠ s.cpl))
    (hpresent : d.present = false) : s.loadSsProt sel = raise .ss (selCode sel) := by
  obtain ⟨hrpl, hw, hd⟩ : rpl sel = s.cpl ∧ d.isWritable = true ∧ d.dpl = s.cpl := by simpa using hgood
  rw [s.loadSsProt_descOrGp sel h hrpl, s.descOrGp_found sel hdesc, Res.ok_bind, hw, bne_eq_false_iff_eq.2 hd, hpresent]
  rfl

/-! ## The checks on a selector for DS, ES, FS, GS (R155 rows 2, 3, 5–7) -/

/-- A segment the level may not read, or no readable one. -/
abbrev State.badData (s : State) (sel : Word) (d : Descriptor) : Prop :=
  d.isReadable = false ∨ d.isConforming = false ∧ (d.dpl < s.cpl ∨ d.dpl < rpl sel)

/-- The level check of a data segment asks for the less privileged of CPL and RPL. -/
theorem State.badData_iff (s : State) (sel : Word) (d : Descriptor) :
    (!d.isReadable || (!d.isConforming && decide (d.dpl < outerLevel s.cpl (rpl sel)))) = true ↔ s.badData sel d := by
  have hlevel : d.dpl < outerLevel s.cpl (rpl sel) ↔ d.dpl < s.cpl ∨ d.dpl < rpl sel := by
    have := outerLevel_le_iff s.cpl (rpl sel) d.dpl
    simp only [← BitVec.not_lt] at this
    tauto
  simp only [Bool.or_eq_true, Bool.not_eq_true', Bool.and_eq_true, decide_eq_true_eq, hlevel]

section
variable (s : State) (r : SReg) (sel : Word) (h : 4 ≤ sel.toNat)
include h

/-- A selector that is not null has its descriptor read. -/
theorem State.loadDataProt_descOrGp : s.loadDataProt r sel = s.descOrGp sel >>= fun d => do
    stopIf (!d.isReadable || (!d.isConforming && decide (d.dpl < outerLevel s.cpl (rpl sel)))) (raise .gp (selCode sel))
    stopIf (!d.present) (raise .np (selCode sel))
    return SegReg.loaded sel d := by
  rw [State.loadDataProt, nullSel_of_le h]
  rfl

theorem State.loadDataProt_outside (hdesc : s.desc sel = none) : s.loadDataProt r sel = raise .gp (selCode sel) := by
  rw [s.loadDataProt_descOrGp r sel h, s.descOrGp_none sel hdesc]
  rfl

theorem State.loadDataProt_pageFault {c : Word} {lin : Dword} (hdesc : s.desc sel = some (.pageFault c lin)) :
    s.loadDataProt r sel = raisePf c lin := by
  rw [s.loadDataProt_descOrGp r sel h, s.descOrGp_pageFault sel hdesc]
  rfl

variable {d : Descriptor} (hdesc : s.desc sel = some (.found d))
include hdesc

theorem State.loadDataProt_bad (hbad : s.badData sel d) : s.loadDataProt r sel = raise .gp (selCode sel) := by
  rw [s.loadDataProt_descOrGp r sel h, s.descOrGp_found sel hdesc, Res.ok_bind, (s.badData_iff sel d).2 hbad]
  rfl

theorem State.loadDataProt_absent (hgood : ¬s.badData sel d) (hpresent : d.present = false) :
    s.loadDataProt r sel = raise .np (selCode sel) := by
  have hcheck := Bool.eq_false_iff.2 fun hbad => hgood ((s.badData_iff sel d).1 hbad)
  rw [s.loadDataProt_descOrGp r sel h, s.descOrGp_found sel hdesc, Res.ok_bind, hcheck, hpresent]
  rfl

theorem State.loadDataProt_passes (hgood : ¬s.badData sel d) (hpresent : d.present = true) :
    s.loadDataProt r sel = .ok (SegReg.loaded sel d) := by
  have hcheck := Bool.eq_false_iff.2 fun hbad => hgood ((s.badData_iff sel d).1 hbad)
  rw [s.loadDataProt_descOrGp r sel h, s.descOrGp_found sel hdesc, Res.ok_bind, hcheck, hpresent]
  rfl

end

/-! ## POPA, POPAD (40_stack R156, R157) -/

/-- The first `n` items on the stack, by their position. -/
def State.popItems (s : State) (w : Width) : Nat → Res (Nat → BitVec w.bits)
  | 0 => .ok fun _ => 0
  | n + 1 => do
    let x ← s.popItems w n
    let v ← s.stackRead (w.bytes * n) w
    return fun j => if j = n then v else x j

/-- The general registers after POPA or POPAD of the items `x`. -/
def Regs.popAll (g : Regs) (w : Width) (x : Nat → BitVec w.bits) : Regs :=
  ((((((g.write w .n7 (x 0)).write w .n6 (x 1)).write w .n5 (x 2)).write w .n3 (x 4)).write w .n2 (x 5)).write w .n1
    (x 6)).write w .n0 (x 7)

/-- What POPA or POPAD leaves. -/
def State.afterPopAll (s : State) (w : Width) (x : Nat → BitVec w.bits) : State :=
  { (s.release (8 * w.bytes)).advance with regs := (s.release (8 * w.bytes)).regs.popAll w x }

theorem popAll_eq (w : Width) (s : State) : popAll w s = do
    stopIf (s.v86Trapped && Config.v86PopaFaults) (raise .gp 0)
    let x ← s.popItems w 8
    return s.afterPopAll w x := by
  simp only [popAll, State.popItems, Res.ok_bind, bind_assoc, pure_bind, Nat.mul_comm w.bytes, Nat.zero_mul, Nat.one_mul]
  rfl

/-- Items that are all readable are read. -/
theorem State.popItems_ok (s : State) (w : Width) (n : Nat) (x : Nat → BitVec w.bits)
    (h : ∀ j, j < n → s.stackRead (w.bytes * j) w = .ok (x j)) : ∃ y, s.popItems w n = .ok y ∧ ∀ j, j < n → y j = x j := by
  induction n with
  | zero => exact ⟨_, rfl, fun j hj => absurd hj (Nat.not_lt_zero j)⟩
  | succ n ih =>
    obtain ⟨y, hy, hyx⟩ := ih fun j hj => h j (by omega)
    refine ⟨_, by rw [State.popItems, hy, Res.ok_bind, h n (by omega)]; rfl, fun j hj => ?_⟩
    by_cases hjn : j = n
    · rw [if_pos hjn, hjn]
    · rw [if_neg hjn, hyx j (by omega)]

/-- An item that stops, those before it being readable, stops them all. -/
theorem State.popItems_error (s : State) (w : Width) (n j : Nat) (e : Stop) (hj : j < n)
    (hbefore : ∀ k, k < j → ∃ v, s.stackRead (w.bytes * k) w = .ok v) (herror : s.stackRead (w.bytes * j) w = .error e) :
    s.popItems w n = .error e := by
  induction n with
  | zero => exact absurd hj (Nat.not_lt_zero j)
  | succ n ih =>
    by_cases hjn : j = n
    · subst hjn
      choose! x hx using hbefore
      obtain ⟨y, hy, _⟩ := s.popItems_ok w j x hx
      rw [State.popItems, hy, Res.ok_bind, herror]
      rfl
    · rw [State.popItems, ih (by omega)]
      rfl

theorem shapeOf_popAll {i : Instr} {w : Width} (hi : (i, w) ∈ [(Instr.popa, Width.word), (Instr.popad, Width.dword)]) :
    shapeOf i = some (.popAll w) := by
  obtain ⟨rfl, rfl⟩ | ⟨rfl, rfl⟩ : i = .popa ∧ w = .word ∨ i = .popad ∧ w = .dword := by simpa using hi
  · rfl
  · rfl

/-- POPA and POPAD are not trapped where V86_POPA_IOPL lets them (log 5). -/
theorem State.popAll_untrapped (s : State) (h : ¬(s.mode = .v86 ∧ s.iopl ≠ 3 ∧ Config.v86PopaFaults = true)) :
    (s.v86Trapped && Config.v86PopaFaults) = false := by
  rw [Bool.and_eq_false_iff]
  by_cases htrap : s.mode = .v86 ∧ s.iopl ≠ 3
  · exact .inr (Bool.eq_false_iff.2 fun hf => h ⟨htrap.1, htrap.2, hf⟩)
  · exact .inl (s.v86Trapped_eq_false htrap)

/-- A register of another home reads as before a write. -/
theorem Regs.read_write_other (g : Regs) (w : Width) (i j : RegNum) (v : BitVec w.bits) (h : regHome w j ≠ regHome w i) :
    (g.write w i v).read w j = g.read w j := by
  have hget := Regs.get_write_other g w i _ v h
  cases w with
  | byte => exact congrArg (getByte · (byteHigh j)) hget
  | word => exact congrArg (BitVec.extractLsb' 0 16) hget
  | dword => exact hget

/-- A word written keeps the high half of every register. -/
theorem Regs.get_write_high (g : Regs) (i r : RegNum) (v : Word) :
    ((g.write .word i v).get r).extractLsb' 16 16 = (g.get r).extractLsb' 16 16 := by
  by_cases h : r = i
  · rw [h, Regs.get_write_word_high]
  · rw [Regs.get_write_other g .word i r v h]

/-- Each of the seven registers takes its item. -/
theorem State.afterPopAll_reg (s : State) (w : Width) (hw : w ≠ .byte) (x : Nat → BitVec w.bits) (r : RegNum) (j : Nat)
    (hr : (r, j) ∈ [(RegNum.n7, 0), (.n6, 1), (.n5, 2), (.n3, 4), (.n2, 5), (.n1, 6), (.n0, 7)]) :
    regBecomes s (s.afterPopAll w x) w r (x j) := by
  have home : ∀ i, regHome w i = i := fun i => if_neg hw
  have other : ∀ (g : Regs) (i k : RegNum) (v : BitVec w.bits), k ≠ i → (g.write w i v).read w k = g.read w k :=
    fun g i k v h => Regs.read_write_other g w i k v (by rwa [home, home])
  constructor
  · show ((s.release (8 * w.bytes)).regs.popAll w x).read w r = x j
    simp only [List.mem_cons, Prod.mk.injEq, List.not_mem_nil, or_false] at hr
    obtain ⟨rfl, rfl⟩ | ⟨rfl, rfl⟩ | ⟨rfl, rfl⟩ | ⟨rfl, rfl⟩ | ⟨rfl, rfl⟩ | ⟨rfl, rfl⟩ | ⟨rfl, rfl⟩ := hr <;>
      simp [Regs.popAll, Regs.read_write_same, other]
  · rintro rfl
    have hrelease : (s.release (8 * Width.word.bytes)).regs.get r = s.regs.get r :=
      s.release_regsKept _ r (by rintro h; obtain rfl := List.mem_singleton.1 h; simp at hr)
    show (((s.release (8 * Width.word.bytes)).regs.popAll .word x).get r).extractLsb' 16 16 = _
    simp only [Regs.popAll, Regs.get_write_high, hrelease]

/-- The stack pointer is past the items: no register written is (E)SP. -/
theorem State.afterPopAll_spBecomes (s : State) (w : Width) (hw : w ≠ .byte) (x : Nat → BitVec w.bits) :
    spBecomes s (s.afterPopAll w x) (s.spPlus (BitVec.ofNat 32 (8 * w.bytes))) := by
  have hesp : (s.afterPopAll w x).regs.esp = (s.release (8 * w.bytes)).regs.esp := by
    cases w with
    | byte => exact absurd rfl hw
    | word => rfl
    | dword => rfl
  have hsp := s.release_spBecomes (8 * w.bytes)
  unfold spBecomes at hsp ⊢
  rw [hesp, hsp]

/-! ## POPF, POPFD (40_stack R158–R160) -/

theorem shapeOf_popFlags {i : Instr} {w : Width} (hi : (i, w) ∈ [(Instr.popf, Width.word), (Instr.popfd, Width.dword)]) :
    shapeOf i = some (.popFlags w) := by
  obtain ⟨rfl, rfl⟩ | ⟨rfl, rfl⟩ : i = .popf ∧ w = .word ∨ i = .popfd ∧ w = .dword := by simpa using hi
  · rfl
  · rfl

theorem State.mayWriteIf_iff (s : State) : s.mayWriteIf = true ↔ s.mode = .real ∨ s.cpl ≤ s.iopl := by
  rw [State.mayWriteIf, Bool.or_eq_true, beq_iff_eq, decide_eq_true_iff]

theorem State.mayWriteIopl_iff (s : State) : s.mayWriteIopl = true ↔ s.mode = .real ∨ s.mode = .prot ∧ s.cpl = 0 := by
  rw [State.mayWriteIopl, Bool.or_eq_true, Bool.and_eq_true, beq_iff_eq, beq_iff_eq, beq_iff_eq]

/-- The mask of POPF, bit by bit (R160). -/
theorem popfMask_bits (a c : Bool) :
    (∀ b, b ∈ [0, 2, 4, 6, 7, 8, 10, 11, 14] → (popfMask a c).getLsbD b = true) ∧ (popfMask a c).getLsbD 9 = a ∧
      ∀ b, b = 12 ∨ b = 13 → (popfMask a c).getLsbD b = c := by
  refine ⟨?_, ?_, ?_⟩
  · cases a <;> cases c <;> decide
  · cases a <;> cases c <;> decide
  · rintro b (rfl | rfl) <;> cases a <;> cases c <;> decide

/-- The item at the width of POPF, as a word of 32 bits. -/
theorem item_bit {w : Width} (v : BitVec w.bits) (b : Nat) (hb : b < 16) :
    (v.setWidth 32).getLsbD b = v.getLsbD b := by
  rw [BitVec.getLsbD_setWidth, decide_eq_true (by omega), Bool.true_and]

/-- With its item read and not trapped, POPF tests TF and writes EFLAGS. -/
theorem popFlags_of_read {s : State} {w : Width} {v : BitVec w.bits} (htrap : s.v86Trapped = false)
    (hv : s.stackRead 0 w = .ok v) : popFlags w s = do
      stopIf (flag (v.setWidth 32) .tf) (refuse .singleStep)
      return ((s.release w.bytes).setEflags (s.popfFlags (v.setWidth 32))).advance := by
  rw [popFlags, htrap, State.pop, hv]
  rfl

/-! ## The statements of the family -/

/-- Settles O18: the item into another register, and into (E)SP by the parameter. -/
theorem popRegisterCompletes : Obligations.PopRegisterCompletes := by
  unfold Obligations.PopRegisterCompletes
  intro s i r v hi hv
  obtain ⟨⟨hflags, hsegs⟩, hmem, hsystem, hcompleted⟩ := s.popToReg_kept s.os.width r v
  have hk : shapeOf i = some (.popReg r) := by obtain rfl | rfl := hi <;> rfl
  refine ⟨(s.popToReg s.os.width r v).advance, ?_, s.popToReg_other r v, ?_, hflags, hsegs, hmem, hsystem, hcompleted⟩
  · rw [exec_shape i _ s hk, conclude_next]
    exact Res.bind_ok.2 ⟨v, hv, rfl⟩
  · rintro rfl
    exact s.popToReg_sp v

/-- Settles O19: the destination is checked in the released state, which no check sees. -/
theorem popMemoryCompletes : Obligations.PopMemoryCompletes := by
  unfold Obligations.PopMemoryCompletes
  intro s m v ps hwf hv haccess hps
  have same : SameChecks s (s.release s.os.width.bytes) := ⟨rfl, rfl, rfl, rfl, rfl⟩
  obtain ⟨hlen, hlt⟩ := s.access_ok _ _ _ _ _ haccess
  have hwrite := ((s.release s.os.width.bytes).memWrite_ok _ (s.memSeg m) (s.popEa s.os.width m).toNat s.os.width v).2
    ⟨ps, (same.access _ _ _ _).trans haccess, rfl⟩
  have runs : exec (.popRm (.mem m)) s =
      .next ((s.release s.os.width.bytes).pokes ps (valueBytes s.os.width v)).advance := by
    rw [exec_shape _ _ s rfl, conclude_next]
    exact Res.bind_ok.2 ⟨v, hv, Res.bind_ok.2 ⟨_, hwrite, rfl⟩⟩
  have hsp := s.release_spBecomes s.os.width.bytes
  refine ⟨fun hesp => by rw [State.popEa, hesp]; rfl, _, runs, ?_, fun r hr => ?_, ?_, fun a ha => State.pokes_get_other _ ps _ a ha,
    by simp, by simp, by simp [systemKept], by simp [completed]⟩
  · unfold spBecomes at hsp ⊢
    rw [State.advance_regs, State.pokes_regs, hsp]
  · rw [State.advance_regs, State.pokes_regs]
    exact s.release_regsKept _ r hr
  · have stored := (s.release s.os.width.bytes).pokes_get ps (valueBytes s.os.width v) hwf hps hlt
      (by rw [hlen, valueBytes_length])
    exact stored.trans (valueBytes_eq _ v)

/-- Settles O20: outside protected mode the selector is loaded without a check. -/
theorem popSegmentOutsideProtectedMode : Obligations.PopSegmentOutsideProtectedMode := by
  unfold Obligations.PopSegmentOutsideProtectedMode
  intro s i r v hi hmode hv
  obtain ⟨hsp, hregs, hflags, hmem, hsystem, hends⟩ := s.afterPopSeg_kept r ((s.seg r).loadedReal (v.extractLsb' 0 16))
  refine ⟨_, exec_segPop_next hv hi (State.loadSeg_of_ne_prot hmode r _), ?_, ?_, ?_, ?_, s.afterPopSeg_other r _, hsp, hregs,
    hflags, hmem, hsystem, hends⟩
  · rw [s.afterPopSeg_same]; rfl
  · rw [s.afterPopSeg_same, SegReg.loadedReal_base]
  · rw [s.afterPopSeg_same]; rfl
  · rw [s.afterPopSeg_same]; rfl

/-- Settles O21: the load of a selector that passes, for SS and for the data segments. -/
theorem popSegmentInProtectedMode : Obligations.PopSegmentInProtectedMode := by
  unfold Obligations.PopSegmentInProtectedMode
  intro s i r v d hi hprot hv sel found hpasses
  have hload : s.loadSeg r sel = .ok (if sel.toNat < 4 then { s.seg r with selector := sel, valid := false }
      else { selector := sel, cache := d, valid := true }) := by
    obtain ⟨hr, hnull⟩ | ⟨hr, hle, ⟨hdesc, hpresent⟩, hread, hlevel⟩ | ⟨rfl, hle, ⟨hdesc, hpresent⟩, hw, hrpl, hdpl⟩ := hpasses
    · rw [State.loadSeg_data hprot hr, if_pos hnull, State.loadDataProt, (nullSel_iff sel).2 hnull]
      rfl
    · have hgood : ¬s.badData sel d := by
        rintro (hbad | ⟨hconforming, hbad⟩)
        · rw [hread] at hbad; cases hbad
        · obtain ⟨hcpl, hrpl⟩ := hlevel.resolve_left (by rw [hconforming]; simp)
          bv_omega
      rw [State.loadSeg_data hprot hr, if_neg (Nat.not_lt.2 hle)]
      exact s.loadDataProt_passes r sel hle hdesc hgood hpresent
    · rw [State.loadSeg_ss hprot, if_neg (Nat.not_lt.2 hle)]
      exact (s.loadSsProt_ok sel _).2 ⟨d, hdesc, nullSel_of_le hle, hrpl, hw, hdpl, hpresent, rfl⟩
  obtain ⟨hsp, hregs, hflags, hmem, hsystem, hends⟩ := s.afterPopSeg_kept r
    (if sel.toNat < 4 then { s.seg r with selector := sel, valid := false } else { selector := sel, cache := d, valid := true })
  exact ⟨_, exec_segPop_next hv hi hload, s.afterPopSeg_same r _, s.afterPopSeg_other r _, hsp, hregs, hflags, hmem, hsystem,
    hends⟩

/-- Settles O22: what stops the load of the selector, row by row. -/
theorem popSegmentTraps : Obligations.PopSegmentTraps := by
  unfold Obligations.PopSegmentTraps
  intro s i r v hi hprot hv sel raised
  have hmode : s.mode ≠ .real := by rw [hprot]; decide
  have raises : ∀ {x : Exc} {c : Word}, s.loadSeg r sel = raise x c → raised x c := fun h =>
    exec_raise (shapeOf_segPop hi) hmode (popSegment_stops hv h)
  refine ⟨?_, fun hle hdesc => raises ?_, ?_, fun c lin hle hlevel hdesc => ?_, fun d hle hdesc => ?_⟩
  · rintro rfl hnull
    exact raises ((State.loadSeg_ss hprot sel).trans (s.loadSsProt_null sel hnull))
  · by_cases hr : r = .ss
    · subst hr
      exact (State.loadSeg_ss hprot sel).trans (s.loadSsProt_outside sel hle hdesc)
    · exact (State.loadSeg_data hprot hr sel).trans (s.loadDataProt_outside r sel hle hdesc)
  · rintro rfl hle hrpl
    exact raises ((State.loadSeg_ss hprot sel).trans (s.loadSsProt_level sel hle hrpl))
  · refine exec_raisePf (shapeOf_segPop hi) hmode (popSegment_stops hv ?_)
    by_cases hr : r = .ss
    · subst hr
      exact (State.loadSeg_ss hprot sel).trans (s.loadSsProt_pageFault sel hle (hlevel rfl) hdesc)
    · exact (State.loadSeg_data hprot hr sel).trans (s.loadDataProt_pageFault r sel hle hdesc)
  · by_cases hr : r = .ss
    · subst hr
      have hload := State.loadSeg_ss hprot sel
      exact ⟨fun hbad => raises (hload.trans (s.loadSsProt_bad sel hle hdesc (by simpa using hbad))),
        fun hgood hpresent => raises (hload.trans (s.loadSsProt_absent sel hle hdesc (by simpa using hgood) hpresent))⟩
    · have hload := State.loadSeg_data hprot hr sel
      simp only [if_neg hr]
      exact ⟨fun hbad => raises (hload.trans (s.loadDataProt_bad r sel hle hdesc hbad)),
        fun hgood hpresent => raises (hload.trans (s.loadDataProt_absent r sel hle hdesc hgood hpresent))⟩

/-- Settles O23: the eight items read, seven of them written. -/
theorem popAllCompletes : Obligations.PopAllCompletes := by
  unfold Obligations.PopAllCompletes
  intro s i w x hi htrap hx
  have hw : w ≠ .byte := by
    rintro rfl
    simp at hi
  obtain ⟨y, hy, hyx⟩ := s.popItems_ok w 8 x hx
  refine ⟨s.afterPopAll w y, ?_, fun r j hr => ?_, s.afterPopAll_spBecomes w hw y, rfl, rfl, fun _ _ => rfl,
    ⟨rfl, rfl, rfl, rfl, rfl, rfl, rfl, rfl, rfl, rfl, rfl, rfl⟩, rfl, rfl, rfl⟩
  · rw [exec_shape i _ s (shapeOf_popAll hi), conclude_next]
    show popAll w s = _
    rw [popAll_eq, s.popAll_untrapped htrap, hy]
    rfl
  · have hj : j < 8 := by
      simp only [List.mem_cons, Prod.mk.injEq, List.not_mem_nil, or_false] at hr
      omega
    exact hyx j hj ▸ s.afterPopAll_reg w hw y r j hr

/-- Settles O24: the merge of R160 bit by bit, after the test of TF. -/
theorem popFlagsCompletes : Obligations.PopFlagsCompletes := by
  unfold Obligations.PopFlagsCompletes
  intro s i w v hi htrap hv
  have hk := shapeOf_popFlags hi
  have hread := popFlags_of_read (s.v86Trapped_eq_false htrap) hv
  have htf : flag (v.setWidth 32) .tf = v.getLsbD 8 := item_bit v 8 (by decide)
  rw [htf] at hread
  have hbit : ∀ b, (s.popfFlags (v.setWidth 32)).getLsbD b = if (popfMask s.mayWriteIf s.mayWriteIopl).getLsbD b = true then
      (v.setWidth 32).getLsbD b else s.eflags.getLsbD b := fun b => popfMerge_bit _ _ _ _ b
  obtain ⟨halways, hif, hiopl⟩ := popfMask_bits s.mayWriteIf s.mayWriteIopl
  constructor
  · intro hset
    rw [hset] at hread
    rw [exec_shape i _ s hk]
    show conclude s (popFlags w s) = _
    rw [hread]
    rfl
  · intro hclear
    rw [hclear] at hread
    refine ⟨((s.release w.bytes).setEflags (s.popfFlags (v.setWidth 32))).advance, ?_, fun b hb => ?_, ?_, fun b hb => ?_,
      fun b hb => ?_, s.release_spBecomes _, s.release_regsKept _, rfl, fun _ _ => rfl,
      ⟨rfl, rfl, rfl, rfl, rfl, rfl, rfl, rfl, rfl, rfl, rfl, rfl⟩, rfl, rfl, rfl⟩
    · rw [exec_shape i _ s hk, conclude_next]
      exact hread
    · have hlow : b < 16 := by
        simp only [List.mem_cons, List.not_mem_nil, or_false] at hb
        omega
      exact (hbit b).trans (by rw [if_pos (halways b hb), item_bit v b hlow])
    · refine (hbit 9).trans ?_
      rw [hif, item_bit v 9 (by decide)]
      simp only [s.mayWriteIf_iff]
    · refine (hbit b).trans ?_
      rw [hiopl b hb, item_bit v b (by omega)]
      simp only [s.mayWriteIopl_iff]
    · exact (hbit b).trans (if_neg (by rw [popfMask_bit _ _ b hb]; simp))

/-- Settles O25: each of these instructions asks for its privilege before anything else. -/
theorem ioplTraps : Obligations.IoplTraps := by
  unfold Obligations.IoplTraps
  intro s
  constructor
  · intro hmode hiopl i hi
    have hreal : s.mode ≠ .real := by rw [hmode]; decide
    have htrap := s.v86Trapped_eq_true hmode hiopl
    have pops : ∀ w, popFlags w s = raise .gp 0 := fun w => by rw [popFlags, htrap]; rfl
    have pushes : ∀ w v, pushFlags w v s = raise .gp 0 := fun w v => by rw [pushFlags, htrap]; rfl
    simp only [List.mem_cons, List.not_mem_nil, or_false] at hi
    obtain rfl | rfl | rfl | rfl | rfl := hi
    · exact exec_raise rfl hreal (pops .word)
    · exact exec_raise rfl hreal (pops .dword)
    · exact exec_raise rfl hreal (pushes .word _)
    · exact exec_raise rfl hreal (pushes .dword _)
    · have hcpl : s.cpl = 3 := by unfold State.cpl; rw [hmode]
      refine exec_sti_denied s hreal (Bool.eq_false_iff.2 fun hmay => ?_)
      have hle := (s.mayEnable_iff.1 hmay).resolve_left hreal
      rw [hcpl] at hle
      exact hiopl (by bv_omega)
  · intro hprot hlt
    have hreal : s.mode ≠ .real := by rw [hprot]; decide
    refine exec_sti_denied s hreal (Bool.eq_false_iff.2 fun hmay => ?_)
    have hle := (s.mayEnable_iff.1 hmay).resolve_left hreal
    bv_omega

end Sys2Proof.Machine
end

section
/-! SETcc, the repeated string instructions, SGDT and SIDT, the invalid opcodes, the prefix bytes: one lemma for what each
leaves, and the statements about them. -/

namespace Sys2Proof.Machine

/-! ## SETcc (43_flag_control R261) -/

theorem shapeOf_setInstr (c : Cond) (rm : RM) : shapeOf (setInstr c rm) = some (.setcc c rm) := by
  cases c <;> rfl

/-- An operand that may be written takes the value. -/
theorem State.rmWrite_of_slot {s : State} {w : Width} {rm : RM} {ws : List Nat} (v : BitVec w.bits)
    (h : s.slot w rm = .ok ws) : s.rmWrite w rm v = .ok (s.storeRm w rm ws v) := by
  cases rm with
  | reg r => rfl
  | mem m => exact (s.memWrite_ok _ _ _ w v).2 ⟨ws, h, rfl⟩

/-- SETcc of an operand that may be written. -/
theorem exec_setInstr_next {s : State} (c : Cond) {rm : RM} {ws : List Nat} (h : s.slot .byte rm = .ok ws) :
    exec (setInstr c rm) s =
      .next (s.afterModify .byte rm ws (if c.holds s.eflags then 1#8 else 0#8) s.eflags) := by
  rw [exec_shape _ _ s (shapeOf_setInstr c rm), conclude_next]
  exact Res.bind_ok.2 ⟨_, State.rmWrite_of_slot _ h, rfl⟩

/-- A byte lies at one address at most. -/
theorem State.slot_byte_nodup {s : State} {rm : RM} {ws : List Nat} (h : s.slot .byte rm = .ok ws) : ws.Nodup := by
  cases rm with
  | reg r => cases h; exact .nil
  | mem m =>
    obtain ⟨a, rfl⟩ := List.length_eq_one_iff.1 (s.access_ok _ _ _ _ _ h).1
    exact List.nodup_singleton a

/-! ## A repeated string instruction (45_string R316) -/

/-- The repeat count of registers at an address size. -/
def State.countAt (as : OSize) (g : State) : Nat :=
  match as with
  | .s32 => g.regs.ecx.toNat
  | .s16 => (g.regs.ecx.extractLsb' 0 16).toNat

theorem State.strCount_toNat (s : State) : s.strCount.toNat = s.countAt s.as := by
  unfold State.strCount State.countAt
  cases s.as with
  | s32 => rfl
  | s16 => rw [BitVec.toNat_setWidth_of_le (by decide), BitVec.setWidth_eq_extractLsb' (by decide)]

theorem State.strCount_eq_zero (s : State) : s.strCount = 0 ↔ s.countAt s.as = 0 := by
  rw [← s.strCount_toNat, BitVec.toNat_eq]; rfl

/-- A count that is not 0, taken down by one. -/
theorem countAt_movedBy {as : OSize} {s t : State} (h : s.countAt as ≠ 0) (ht : t.regs.ecx = movedBy as s.regs.ecx (-1)) :
    t.countAt as + 1 = s.countAt as := by
  unfold State.countAt at h ⊢
  rw [ht]
  cases as with
  | s32 => simp only [movedBy] at h ⊢; bv_omega
  | s16 =>
    simp only [movedBy, BitVec.extractLsb'_append_eq_right] at h ⊢
    generalize BitVec.extractLsb' 0 16 s.regs.ecx = c at h ⊢
    change (c + (-1 : BitVec 32).extractLsb' 0 16).toNat + 1 = c.toNat
    rw [show (-1 : BitVec 32).extractLsb' 0 16 = 0xFFFF#16 from rfl]
    bv_omega

/-- What SCAS and STOS have in common: one access to the element, then the move of the index, none of which the repeat prefix
takes part in; and the test that ends a repetition. -/
structure IsString (w : Width) (i : Instr) (one : State → Res State) (ends : Rep → State → Bool) : Prop where
  exec_eq : ∀ s, exec i s = conclude s (repeated one ends s)
  unprefixed : ∀ s r, one { s with cur := { s.cur with rep := r } } =
    one s >>= fun v => pure { v with cur := { s.cur with rep := r } }
  moves : ∀ s v, one s = .ok v → ∃ u, ElementAccessed s u ∧ u.eip = s.eip ∧ u.inhibit = s.inhibit ∧ v = u.strMove w
  test : ∀ r s, ends r s = true ↔ i = scasInstr w ∧ flag s.eflags .zf = (r == .repne)

theorem isString_scas (w : Width) : IsString w (scasInstr w) (scasOne w) scasEnds where
  exec_eq s := exec_scas s w
  unprefixed s r := by
    unfold scasOne State.memRead
    rw [(sameChecks_withCur s _).access]
    show (s.access .es s.strIndex.toNat w.bytes .read >>= _) >>= _ = _
    cases s.access .es s.strIndex.toNat w.bytes .read <;> rfl
  moves s v h := by
    obtain ⟨b, _, hv⟩ := Res.bind_ok.1 h
    exact ⟨_, elementAccessed_withStatus s _, rfl, rfl, ((Res.pure_ok _ _).1 hv).symm⟩
  test r s := by
    cases r with
    | rep => simp [scasEnds, show (Rep.rep == Rep.repne) = false from rfl]
    | repne => simp [scasEnds]

/-- Bytes stored take no part in the decoding. -/
theorem State.pokes_withCur (u : State) (c : Cur) (ps : List Nat) (bs : List Byte) :
    { u with cur := c }.pokes ps bs = { u.pokes ps bs with cur := c } := by
  induction ps generalizing u bs with
  | nil => rfl
  | cons p ps ih =>
    cases bs with
    | nil => rfl
    | cons b bs => exact ih (u.poke p b) bs

/-- The index moves by the address size, whatever else the prefixes say. -/
theorem State.strMove_withCur (u : State) (c : Cur) (w : Width) (h : c.as = u.cur.as) :
    { u with cur := c }.strMove w = { u.strMove w with cur := c } := by
  have has : { u with cur := c }.as = u.as := by unfold State.as; rw [h]; rfl
  unfold State.strMove
  rw [has]

theorem isString_stos (w : Width) : IsString w (stosInstr w) (stosOne w) stosEnds where
  exec_eq s := exec_stos s w
  unprefixed s r := by
    unfold stosOne State.memWrite State.memWriteBytes
    rw [(sameChecks_withCur s _).access]
    show (s.access .es s.strIndex.toNat _ .write >>= _) >>= _ = _
    cases s.access .es s.strIndex.toNat (valueBytes w (s.reg w accNum)).length .write with
    | error e => rfl
    | ok ps =>
      refine congrArg Except.ok ?_
      rw [State.pokes_withCur]
      exact State.strMove_withCur _ _ w (congrArg Cur.as (s.pokes_cur _ _)).symm
  moves s v h := by
    simp only [stosOne, Res.bind_ok, Res.pure_ok, State.memWrite_ok] at h
    obtain ⟨_, ⟨ps, _, rfl⟩, rfl⟩ := h
    exact ⟨_, elementAccessed_pokes s ps _, s.pokes_eip _ _, s.pokes_inhibit _ _, rfl⟩
  test r s := by cases w <;> simp [stosEnds, stosInstr, scasInstr]

section
variable {s v : State} {w : Width} {i : Instr} {one : State → Res State} {ends : Rep → State → Bool} {r : Rep}

/-- Where one iteration stops, so does the repetition. -/
theorem repeated_some_error {e : Stop} (hrep : s.cur.rep = some r) (hcount : s.strCount ≠ 0) (h : one s = .error e) :
    repeated one ends s = .error e := by
  unfold repeated
  rw [hrep]
  simp only [if_neg hcount, h]
  rfl

/-- Where one iteration answers, (E)CX goes down, and the repetition ends or goes on. -/
theorem repeated_some_ok (hrep : s.cur.rep = some r) (hcount : s.strCount ≠ 0) (h : one s = .ok v) :
    repeated one ends s =
      .ok (if v.countDown.strCount = 0 || ends r v.countDown then v.countDown.advance else v.countDown.stay) := by
  unfold repeated
  rw [hrep]
  simp only [if_neg hcount, h]
  rfl

/-- Without its prefix the instruction ends as one iteration does. -/
theorem IsString.exec_plain (h : IsString w i one ends) :
    exec i { s with cur := { s.cur with rep := none } } =
      conclude s (one s >>= fun v => pure { v with cur := { s.cur with rep := none } }.advance) := by
  rw [h.exec_eq]
  unfold repeated
  simp only
  rw [h.unprefixed]
  cases one s with
  | error e => exact stopped_withCur s _ e
  | ok v => rfl

/-- What one iteration leaves beside memory and flags, (E)CX taken down. -/
theorem IsString.countDown_regs (h : IsString w i one ends) (hv : one s = .ok v) :
    v.as = s.as ∧ v.countDown.regs.ecx = movedBy s.as s.regs.ecx (-1) ∧ regsKept [.n1, .n7] s v.countDown := by
  obtain ⟨u, accessed, _, _, rfl⟩ := h.moves s v hv
  have hregs := u.strMove_regs w
  rw [accessed.regs] at hregs
  have hcx : (u.strMove w).regs.ecx = s.regs.ecx := by rw [hregs]; rfl
  have has : (u.strMove w).as = s.as := accessed.as_eq
  refine ⟨has, ?_, fun q hq => ?_⟩
  · show atAddressSize (u.strMove w).as (u.strMove w).regs.ecx ((u.strMove w).regs.ecx - 1) = _
    rw [hcx, has, BitVec.sub_eq_add_neg]
    exact atAddressSize_add _ _ _
  · simp only [List.mem_cons, List.not_mem_nil, or_false, not_or] at hq
    calc (u.strMove w).countDown.regs.get q
        = (u.strMove w).regs.get q := by cases q <;> first | rfl | exact absurd rfl hq.1
      _ = s.regs.get q := by rw [hregs]; exact Regs.get_set_other _ _ _ _ hq.2

end

/-! ## SGDT and SIDT (46_system_store R331–R333) -/

/-- The top byte of a mask and of what the mask leaves of a base. -/
theorem topMask_bit (i : Nat) (hi : i < 32) : (0xFF000000#32).getLsbD i = decide (24 ≤ i) := by
  have : ∀ i : Fin 32, (0xFF000000#32).getLsbD i = decide (24 ≤ i.1) := by decide
  exact this ⟨i, hi⟩

theorem lowMask_bit (i : Nat) (hi : i < 32) : (0x00FFFFFF#32).getLsbD i = decide (i < 24) := by
  have : ∀ i : Fin 32, (0x00FFFFFF#32).getLsbD i = decide (i.1 < 24) := by decide
  exact this ⟨i, hi⟩

/-- Bits 23:0 of the base are stored as they are. -/
theorem baseImage_low (draws : Nat) (base : Dword) (i : Nat) (hi : i < 24) :
    (baseImage draws base).getLsbD i = base.getLsbD i := by
  unfold baseImage
  split
  · rfl
  · have h32 : i < 32 := by omega
    have hnot : ¬ 24 ≤ i := by omega
    change ((_ &&& 0x00FFFFFF#32) ||| (_ &&& 0xFF000000#32)).getLsbD i = _
    simp [topMask_bit i h32, lowMask_bit i h32, hi, hnot]

theorem baseImage_byte (draws : Nat) (base : Dword) (k : Nat) (hk : k + 8 ≤ 24) :
    (baseImage draws base).extractLsb' k 8 = base.extractLsb' k 8 := by
  refine BitVec.eq_of_getLsbD_eq fun i hi => ?_
  simp only [BitVec.getLsbD_extractLsb', baseImage_low draws base (k + i) (by omega)]

/-- A top byte of 0 is stored as 0. -/
theorem baseImage_top (draws : Nat) (base : Dword) (h : base.extractLsb' 24 8 = 0) : baseImage draws base = base := by
  refine if_pos (BitVec.eq_of_getLsbD_eq fun i hi => ?_)
  change (base &&& 0xFF000000#32).getLsbD i = (0#32).getLsbD i
  rw [BitVec.getLsbD_and, topMask_bit i hi, BitVec.getLsbD_zero]
  by_cases htop : 24 ≤ i
  · have bit : (base.extractLsb' 24 8).getLsbD (i - 24) = false := by rw [h]; exact BitVec.getLsbD_zero
    rw [BitVec.getLsbD_extractLsb', show 24 + (i - 24) = i by omega] at bit
    have hlt : i - 24 < 8 := by omega
    rw [decide_eq_true hlt, Bool.true_and] at bit
    rw [bit, Bool.false_and]
  · simp [htop]

/-- SGDT and SIDT whose two accesses pass. -/
theorem exec_table_next {s : State} {i : Instr} {g : TableReg} {m : Mem} {ps qs : List Nat}
    (hi : i = .sgdt (.mem m) ∧ g = s.gdtr ∨ i = .sidt (.mem m) ∧ g = s.idtr)
    (hlimit : s.access (s.memSeg m) (s.ea m).toNat 2 .write = .ok ps)
    (hbase : s.access (s.memSeg m) ((s.ea m).toNat + 2) 4 .write = .ok qs) :
    exec i s = .next (s.pokes (ps ++ qs) (tableImage s.draws g)).advance := by
  have stored : storeTable g (.mem m) s = .ok (s.pokes (ps ++ qs) (tableImage s.draws g)).advance :=
    Res.bind_ok.2 ⟨ps ++ qs, Res.bind_ok.2 ⟨ps, hlimit, Res.bind_ok.2 ⟨qs, hbase, rfl⟩⟩, rfl⟩
  obtain ⟨rfl, rfl⟩ | ⟨rfl, rfl⟩ := hi
  · exact (conclude_next s _ _).2 stored
  · exact (conclude_next s _ _).2 stored

/-! ## Invalid opcodes (30_encoding R129, R130) -/

/-- An exception without an error code leaves the state before the instruction. -/
theorem conclude_raiseBare (s : State) (x : Exc) :
    conclude s (raiseBare x) = .fault (.raised x none { s with cur := Cur.idle }) := by
  unfold raiseBare conclude stopped State.reportedCode
  cases s.mode <;> rfl

/-- Outside protected mode the guard of R129 stops an instruction. -/
theorem State.needProt_denied {α : Type} (s : State) (x : Res α) (h : s.mode ≠ .prot) :
    (s.needProt >>= fun _ => x) = raiseBare .ud := by
  rw [State.needProt, if_neg h]; rfl

/-! ## The default size (30_encoding R124) -/

theorem State.defaultSize_eq (s : State) :
    s.defaultSize = if s.mode = .prot ∧ s.segs.cs.cache.big = true then .s32 else .s16 := by
  unfold State.defaultSize
  cases s.mode <;> simp [sizeOf]

/-! ## The statements about these -/

/-- Settles O36: the byte is the one SETcc writes, by the condition of its name. -/
theorem setccCompletes : Obligations.SetccCompletes := by
  unfold Obligations.SetccCompletes
  intro s c rm ws hwf hslot
  exact ⟨_, exec_setInstr_next c hslot,
    s.afterModify_operandIs_of_slot .byte rm ws _ _ hwf hslot (State.slot_byte_nodup hslot),
    s.afterModify_eflags _ _ _ _ _, s.afterModify_segs _ _ _ _ _, s.afterModify_systemKept _ _ _ _ _,
    s.afterModify_completed _ _ _ _ _⟩

/-- Settles O45: the repeated form and the plain one run the same iteration. -/
theorem repeatedStringSteps : Obligations.RepeatedStringSteps := by
  unfold Obligations.RepeatedStringSteps
  intro s w r i hrep hi plain count
  have hcount : ∀ g, count g = g.countAt s.as := fun g => rfl
  obtain ⟨one, ends, h⟩ : ∃ one ends, IsString w i one ends := by
    obtain rfl | rfl := hi
    · exact ⟨_, _, isString_scas w⟩
    · exact ⟨_, _, isString_stos w⟩
  have hzero : s.strCount = 0 ↔ count s = 0 := s.strCount_eq_zero
  have hplain := h.exec_plain (s := s)
  constructor
  · intro h0
    refine ⟨s.advance, ?_, ⟨rfl, rfl, rfl, fun _ _ => rfl, by simp [systemKept]⟩, rfl, rfl, rfl⟩
    rw [h.exec_eq, conclude_next, repeated, hrep]
    exact if_pos (hzero.2 h0)
  cases hone : one s with
  | error e =>
    have stops : ∀ _ : count s ≠ 0, exec i s = exec i plain := fun h1 => by
      rw [hplain, hone, h.exec_eq, repeated_some_error hrep (mt hzero.1 h1) hone]; rfl
    refine ⟨fun _ u hu => ?_, fun h1 x code a hx => (stops h1).trans hx, fun h1 q hq => (stops h1).trans hq⟩
    rw [hplain, conclude_next, hone] at hu
    cases hu
  | ok v =>
    have answers : exec i plain = .next { v with cur := { s.cur with rep := none } }.advance := by rw [hplain, hone]; rfl
    refine ⟨fun h1 u hu => ?_, fun _ x code a hx => ?_, fun _ q hq => ?_⟩
    · obtain rfl : { v with cur := { s.cur with rep := none } }.advance = u := by
        rw [answers] at hu; exact Host.Outcome.next.inj hu
      obtain ⟨has, hcx, hregs⟩ := h.countDown_regs hone
      obtain ⟨u, accessed, heip, hinhibit, rfl⟩ := h.moves s v hone
      have htest : ((u.strMove w).countDown.strCount = 0 || ends r (u.strMove w).countDown) = true ↔
          count (u.strMove w).countDown = 0 ∨ i = scasInstr w ∧ flag u.eflags .zf = (r == .repne) := by
        rw [Bool.or_eq_true, decide_eq_true_iff, h.test, State.strCount_eq_zero, hcount,
          show (u.strMove w).countDown.as = s.as from has]
        rfl
      have hexec := repeated_some_ok (ends := ends) hrep (mt hzero.1 h1) hone
      rw [← conclude_next s, ← h.exec_eq] at hexec
      have counts : (u.strMove w).countDown.countAt s.as + 1 = s.countAt s.as := countAt_movedBy h1 hcx
      generalize ((u.strMove w).countDown.strCount = 0 || ends r (u.strMove w).countDown : Bool) = ended at htest hexec
      cases ended with
      | true =>
        exact ⟨_, hexec, hcx, counts, rfl, hregs, rfl, rfl, accessed.segs, accessed.system, rfl,
          fun _ => ⟨congrArg Cur.next accessed.cur, rfl⟩, fun hgoes => absurd (htest.1 rfl) hgoes⟩
      | false =>
        exact ⟨_, hexec, hcx, counts, rfl, hregs, rfl, rfl, accessed.segs, accessed.system, rfl,
          fun hends => absurd (htest.2 hends) Bool.false_ne_true, fun _ => ⟨heip, hinhibit⟩⟩
    · rw [answers] at hx; cases hx
    · rw [answers] at hq; cases hq

/-- Settles O46: the six bytes are stored as one image, whose last byte alone is free. -/
theorem tableStoresComplete : Obligations.TableStoresComplete := by
  unfold Obligations.TableStoresComplete
  intro s i g m ps qs hi hwf hlimit hbase hdistinct
  obtain ⟨hps, hplt⟩ := s.access_ok _ _ _ _ _ hlimit
  obtain ⟨hqs, hqlt⟩ := s.access_ok _ _ _ _ _ hbase
  have stored := s.pokes_get (ps ++ qs) (tableImage s.draws g) hwf hdistinct
    (fun p hp => (List.mem_append.1 hp).elim (hplt p) (hqlt p)) (by simp [tableImage, hps, hqs])
  rw [List.map_append] at stored
  obtain ⟨limitStored, baseStored⟩ := List.append_inj stored (by simp [hps])
  refine ⟨_, (baseImage s.draws g.base).extractLsb' 24 8, exec_table_next hi hlimit hbase,
    limitStored.trans (valueBytes_eq .word g.limit), ?_, fun h => ?_,
    fun a ha => s.pokes_get_other _ _ a ha, by simp, by simp, by simp, by simp [systemKept], by simp [completed]⟩
  · have bytes := baseStored.trans (valueBytes_eq .dword (baseImage s.draws g.base))
    simpa [bytesOf, List.range_succ, Width.bytes, baseImage_byte s.draws g.base] using bytes
  · rw [baseImage_top _ _ h, h]

/-- Settles O47: the guards raise before anything is read. -/
theorem invalidOpcodes : Obligations.InvalidOpcodes := by
  unfold Obligations.InvalidOpcodes
  rintro s i (⟨hmode, rm, hi⟩ | ⟨r, hi⟩)
  · simp only [List.mem_cons, List.not_mem_nil, or_false] at hi
    obtain rfl | rfl | rfl | rfl := hi <;>
      exact (congrArg (conclude s) (s.needProt_denied _ hmode)).trans (conclude_raiseBare s .ud)
  · simp only [List.mem_cons, List.not_mem_nil, or_false] at hi
    obtain rfl | rfl := hi <;> exact conclude_raiseBare s .ud

/-- Settles O53: a prefix byte writes one field of what is known of the instruction. -/
theorem prefixesComplete : Obligations.PrefixesComplete := by
  unfold Obligations.PrefixesComplete
  intro s c
  have toggle_ne : ∀ o : OSize, o.toggle ≠ o := by intro o; cases o <;> decide
  refine ⟨rfl, rfl, rfl, fun i r hi => ?_, fun i r hi => ?_, s.defaultSize_eq, fun h => ?_, fun h => ?_, fun h => ?_,
    fun h => ?_⟩
  · simp only [List.mem_cons, Prod.mk.injEq, List.not_mem_nil, or_false] at hi
    obtain ⟨rfl, rfl⟩ | ⟨rfl, rfl⟩ | ⟨rfl, rfl⟩ | ⟨rfl, rfl⟩ | ⟨rfl, rfl⟩ | ⟨rfl, rfl⟩ := hi <;> rfl
  · simp only [List.mem_cons, Prod.mk.injEq, List.not_mem_nil, or_false] at hi
    obtain ⟨rfl, rfl⟩ | ⟨rfl, rfl⟩ := hi <;> rfl
  all_goals simp [State.os, State.as, h, toggle_ne]

end Sys2Proof.Machine
end

section
/-! The coprocessor's pending stores: what WAIT leaves in memory, and what an indivisible exchange sees of one store; XCHG. -/

namespace Sys2Proof.Machine

/-! ## Stores reach memory (20_memory R95, R96) -/

/-- A coprocessor store leaves every other byte. -/
theorem State.commitStore_get_other (s : State) (c : CopStore) (a : Nat) (h : a ≠ c.addr) :
    Memory.get (s.commitStore c).mem a = Memory.get s.mem a := by
  unfold State.commitStore
  split
  · rfl
  · exact Memory.get_set_other _ _ _ _ h

/-- A store the processor has not raced reaches its byte. -/
theorem State.commitStore_get_same (s : State) (c : CopStore) (hwf : Memory.wf s.mem = true) (h : c.raced = false) :
    Memory.get (s.commitStore c).mem c.addr = c.byte := by
  unfold State.commitStore
  rw [h]
  exact Memory.get_set_same _ _ _ hwf

/-- Stores leave every byte none of them goes to. -/
theorem State.foldCommit_get_other (cs : List CopStore) (s : State) (a : Nat) (h : a ∉ cs.map CopStore.addr) :
    Memory.get (cs.foldl State.commitStore s).mem a = Memory.get s.mem a := by
  induction cs generalizing s with
  | nil => rfl
  | cons c cs ih =>
    simp only [List.map_cons, List.mem_cons, not_or] at h
    rw [List.foldl_cons, ih _ h.2, s.commitStore_get_other c a h.1]

/-- Stores to physical addresses keep the canonical form. -/
theorem State.foldCommit_wf (cs : List CopStore) (s : State) (hwf : Memory.wf s.mem = true) (h : ∀ c ∈ cs, c.addr < 2 ^ 32) :
    Memory.wf (cs.foldl State.commitStore s).mem = true := by
  induction cs generalizing s with
  | nil => exact hwf
  | cons c cs ih =>
    exact ih _ (s.commitStore_wf c hwf (h c List.mem_cons_self)) fun d hd => h d (List.mem_cons_of_mem _ hd)

/-- The last store to a byte, not raced, is what memory holds there. -/
theorem State.commitStores_last {s : State} {before after : List CopStore} {c : CopStore} (hwf : Memory.wf s.mem = true)
    (hphys : ∀ d ∈ s.coproc, d.addr < 2 ^ 32) (hsplit : s.coproc = before ++ c :: after) (hrace : c.raced = false)
    (hlast : ∀ d ∈ after, d.addr ≠ c.addr) : Memory.get s.commitStores.mem c.addr = c.byte := by
  have hbefore : Memory.wf (before.foldl State.commitStore s).mem = true :=
    State.foldCommit_wf before s hwf fun d hd => hphys d (by rw [hsplit]; exact List.mem_append_left _ hd)
  have hafter : c.addr ∉ after.map CopStore.addr := by
    rintro h
    obtain ⟨d, hd, haddr⟩ := List.mem_map.1 h
    exact hlast d hd haddr
  show Memory.get (s.coproc.foldl State.commitStore s).mem c.addr = c.byte
  rw [hsplit, List.foldl_append, List.foldl_cons, State.foldCommit_get_other _ _ _ hafter,
    State.commitStore_get_same _ c hbefore hrace]

/-! ## One pending store and an exchange (20_memory R88) -/

/-- Where no store goes to a byte, none is seen there. -/
theorem anySeen_none (draws a n : Nat) (cs : List CopStore) (h : ∀ d ∈ cs, d.addr ≠ a) : anySeen draws a n cs = false := by
  induction cs generalizing n with
  | nil => rfl
  | cons c cs ih =>
    rw [anySeen, decide_eq_false (h c List.mem_cons_self), Bool.false_and, Bool.false_or]
    exact ih _ fun d hd => h d (List.mem_cons_of_mem _ hd)

section
variable (draws : Nat) (as : List Nat) (c : CopStore) (after : List CopStore) (hafter : ∀ d ∈ after, d.addr ≠ c.addr)
include hafter

/-- With no other store to its byte, a store is among those seen exactly where the draw says so. -/
theorem anySeen_head (n : Nat) : anySeen draws c.addr n (c :: after) = Config.coprocSeen draws c.addr n := by
  rw [anySeen, anySeen_none _ _ _ _ hafter, Bool.or_false, decide_eq_true rfl, Bool.true_and]

/-- What is read of the byte of one pending store: its own byte where it is seen, what memory holds where not. -/
theorem pendingByte_one (before : List CopStore) (hbefore : ∀ d ∈ before, d.addr ≠ c.addr) (n : Nat) (v : Byte) :
    pendingByte draws c.addr n (before ++ c :: after) v =
      if Config.coprocSeen draws c.addr (n + before.length) then c.byte else v := by
  induction before generalizing n with
  | nil => exact (pendingByte_unseen _ _ _ _ _ (anySeen_none _ _ _ _ hafter)).trans (if_pos rfl)
  | cons b before ih =>
    rw [List.cons_append, pendingByte, if_neg (hbefore b List.mem_cons_self),
      ih (fun d hd => hbefore d (List.mem_cons_of_mem _ hd)), List.length_cons]
    congr 3
    omega

/-- An exchange that does not reach the byte of a store, or does not see it, leaves it pending. -/
theorem splitSeen_unseen (before : List CopStore) (n : Nat)
    (h : c.addr ∈ as → Config.coprocSeen draws c.addr (n + before.length) = false) :
    c ∈ (splitSeen draws as n (before ++ c :: after)).2 := by
  induction before generalizing n with
  | nil =>
    have unseen : ¬(c.addr ∈ as ∧ anySeen draws c.addr n (c :: after) = true) := by
      rintro ⟨hmem, hseen⟩
      rw [anySeen_head draws c after hafter] at hseen
      exact Bool.false_ne_true ((h hmem).symm.trans hseen)
    simp only [List.nil_append, splitSeen, if_neg unseen, List.mem_cons_self]
  | cons b before ih =>
    have hrest := ih (n + 1) fun hmem => by
      have hb := h hmem
      rwa [List.length_cons, show n + (before.length + 1) = n + 1 + before.length by omega] at hb
    simp only [List.cons_append, splitSeen]
    split
    · exact hrest
    · exact List.mem_cons_of_mem _ hrest

/-- An exchange that sees the one store to a byte leaves none to it pending. -/
theorem splitSeen_seen (before : List CopStore) (hbefore : ∀ d ∈ before, d.addr ≠ c.addr) (n : Nat) (hmem : c.addr ∈ as)
    (h : Config.coprocSeen draws c.addr (n + before.length) = true) :
    ∀ d ∈ (splitSeen draws as n (before ++ c :: after)).2, d.addr ≠ c.addr := by
  induction before generalizing n with
  | nil =>
    have seen : c.addr ∈ as ∧ anySeen draws c.addr n (c :: after) = true :=
      ⟨hmem, (anySeen_head draws c after hafter n).trans h⟩
    simp only [List.nil_append, splitSeen, if_pos seen]
    exact fun d hd => hafter d ((splitSeen_mem _ _ _ _ _).1 (.inr hd))
  | cons b before ih =>
    have hrest := ih (fun d hd => hbefore d (List.mem_cons_of_mem _ hd)) (n + 1) (by
      rwa [List.length_cons, show n + (before.length + 1) = n + 1 + before.length by omega] at h)
    simp only [List.cons_append, splitSeen]
    split
    · exact hrest
    · intro d hd
      rcases List.mem_cons.1 hd with rfl | hd
      · exact hbefore d List.mem_cons_self
      · exact hrest d hd

end

/-! ## The value of bytes read -/

/-- The value read from some addresses has the bytes the processor sees there. -/
theorem State.valueAt_peek (s : State) (w : Width) (ps : List Nat) (hl : ps.length = w.bytes) :
    bytesOf w (s.valueAt w ps) = ps.map s.peek := by
  have hlen : (ps.map s.peek).length = w.bytes := by rw [List.length_map, hl]
  have hlt : leNat (ps.map s.peek) < 2 ^ w.bits := by
    have := leNat_lt (ps.map s.peek)
    rw [hlen] at this
    cases w <;> exact this
  rw [← valueBytes_eq, valueBytes, State.valueAt, BitVec.toNat_ofNat, Nat.mod_eq_of_lt hlt, ← hlen, leBytes_leNat]

/-! ## Two registers written one after the other (10_state R24) -/

/-- The two bytes of a register are apart. -/
theorem getByte_putByte_other (v : Dword) (high : Bool) (b : Byte) : getByte (putByte v high b) (!high) = getByte v (!high) := by
  refine BitVec.eq_of_getLsbD_eq fun i hi => ?_
  have outside : ¬(byteShift high ≤ byteShift (!high) + i ∧ byteShift (!high) + i < byteShift high + 8) := by
    cases high <;> simp only [byteShift, Bool.not_true, Bool.not_false, if_true, Bool.false_eq_true, if_false] <;> omega
  simp only [getByte_eq, BitVec.getLsbD_extractLsb', putByte_bit, if_neg outside]

/-- Two byte registers of one home are its two halves. -/
theorem byteHigh_of_byteHome (i j : RegNum) (h : j ≠ i) (hhome : byteHome j = byteHome i) : byteHigh j = !byteHigh i := by
  revert h hhome
  cases i <;> cases j <;> decide

/-- A register other than the one written reads as before, at the same width. -/
theorem Regs.read_write_ne (g : Regs) (w : Width) (i j : RegNum) (v : BitVec w.bits) (h : j ≠ i) :
    (g.write w i v).read w j = g.read w j := by
  by_cases hhome : regHome w j = regHome w i
  · cases w with
    | byte =>
      have home : byteHome j = byteHome i := hhome
      simp only [Regs.read, Regs.write, home, byteHigh_of_byteHome i j h home, Regs.get_set_same, getByte_putByte_other]
    | word => exact absurd hhome h
    | dword => exact absurd hhome h
  · exact g.read_write_other w i j v hhome

/-- A register written with the value it reads as changes nothing. -/
theorem Regs.write_read (g : Regs) (os : OSize) (i : RegNum) : g.write os.width i (g.read os.width i) = g := by
  have set_get : ∀ v, v = g.get i → g.set i v = g := by rintro _ rfl; cases i <;> rfl
  cases os with
  | s32 => exact set_get _ rfl
  | s16 =>
    refine set_get _ ?_
    show lowWord (g.get i) (((g.get i).extractLsb' 0 16).setWidth 32) = g.get i
    rw [lowWord_eq, BitVec.extractLsb'_setWidth_of_le (by decide), BitVec.extractLsb'_eq_self]
    exact BitVec.extractLsb'_append_extractLsb'_eq_extractLsb' (by decide) |>.trans BitVec.extractLsb'_eq_self

/-! ## XCHG (47_wait_xchg_xlat R364, R366) -/

/-- What XCHG of two registers leaves. -/
def State.afterSwap (s : State) (w : Width) (x r : RegNum) : State :=
  ((s.setReg w r (s.reg w x)).setReg w x (s.reg w r)).advance

section
variable (s : State) (w : Width) (x r : RegNum)

theorem State.afterSwap_first : (s.afterSwap w x r).reg w x = s.reg w r := Regs.read_write_same _ _ _ _

theorem State.afterSwap_second : (s.afterSwap w x r).reg w r = s.reg w x := by
  by_cases h : r = x
  · subst h; exact Regs.read_write_same _ _ _ _
  · exact (Regs.read_write_ne _ _ _ _ _ h).trans (Regs.read_write_same _ _ _ _)

theorem State.afterSwap_regs :
    (s.afterSwap w x r).regs = (s.regs.write w r (s.reg w x)).write w x (s.reg w r) := rfl

theorem State.afterSwap_memKept : memKept [] s (s.afterSwap w x r) := fun _ _ => rfl

theorem State.afterSwap_systemKept : systemKept s (s.afterSwap w x r) := by simp [systemKept, State.afterSwap]

theorem State.afterSwap_completed : completed s (s.afterSwap w x r) := ⟨rfl, rfl, rfl⟩

end

/-- What XCHG with memory leaves, which writes at `ws` and reads at `rs`. -/
def State.afterExchange (s : State) (w : Width) (r : RegNum) (ws rs : List Nat) : State :=
  ((s.setReg w r (s.valueAt w rs)).exchangeBytes ws (valueBytes w (s.reg w r))).advance

theorem exec_xchg_mem {s : State} {w : Bool} {m : Mem} (r : RegNum) {ws rs : List Nat}
    (h : s.accessRmw (s.memSeg m) (s.ea m).toNat (opWidth w s.os).bytes = .ok (ws, rs)) :
    exec (.xchgRmR w (.mem m) r) s = .next (s.afterExchange (opWidth w s.os) r ws rs) :=
  (conclude_next s _ _).2 (Res.bind_ok.2 ⟨_, h, rfl⟩)

/-- The stores an exchange leaves pending are those its read told to come after it. -/
theorem State.afterExchange_coproc (s : State) (w : Width) (r : RegNum) (ws rs : List Nat) :
    (s.afterExchange w r ws rs).coproc = (splitSeen s.draws ws 0 s.coproc).2 := rfl

theorem State.afterExchange_regs (s : State) (w : Width) (r : RegNum) (ws rs : List Nat) :
    (s.afterExchange w r ws rs).regs = s.regs.write w r (s.valueAt w rs) := by simp [State.afterExchange, State.setReg]

/-! ## The statements about these -/

/-- Settles O50: WAIT's tests in their order; where none holds, the stores reach memory in the order issued. -/
theorem waitSteps : Obligations.WaitSteps := by
  unfold Obligations.WaitSteps
  intro s ts
  have htest : s.ts = ts := rfl
  refine ⟨fun hts => ?_, fun hts herror => ?_, fun hts herror hbusy => ?_, fun hts herror hbusy hwf hphys => ?_⟩
  · refine Eq.trans (congrArg (conclude s) ?_) (conclude_raiseBare s .nm)
    simp [waitStep, htest, hts]
  · refine Eq.trans (congrArg (conclude s) ?_) (conclude_raiseBare s .mf)
    simp [waitStep, htest, hts, herror]
  · refine (conclude_next s _ _).2 ?_
    simp [waitStep, htest, hts, herror, hbusy, State.stay]
  · refine ⟨s.commitStores.advance, (conclude_next s _ _).2 ?_, rfl, fun a ha => State.foldCommit_get_other _ s a ha,
      fun before c after hsplit hrace hlast => State.commitStores_last hwf hphys hsplit hrace hlast,
      by simp, by simp, by simp, by simp [systemKept], by simp [completed]⟩
    simp [waitStep, htest, hts, herror, hbusy]

/-- Settles O51: two registers swapped; a register and memory; the one pending store of a byte, seen or not seen. -/
theorem exchangesComplete : Obligations.ExchangesComplete := by
  unfold Obligations.ExchangesComplete
  refine ⟨fun s w x r => ?_, fun s w m r a ws hwf htarget hdistinct => ?_,
    fun s t w m r ws haccess hnext before c after hsplit hothers => ?_, fun s r => ?_⟩
  · exact ⟨s.afterSwap _ x r, rfl, s.afterSwap_first _ x r, s.afterSwap_second _ x r, s.afterSwap_regs _ x r, rfl, rfl,
      s.afterSwap_memKept _ x r, s.afterSwap_systemKept _ x r, s.afterSwap_completed _ x r⟩
  · obtain ⟨rs, haccess, rfl⟩ := s.target_mem_ok _ m a ws htarget
    obtain ⟨hlen, _, hlt, _⟩ := s.accessRmw_ok _ _ _ _ _ haccess
    have stored := (s.setReg (opWidth w s.os) r (s.valueAt _ rs)).pokes_get ws (valueBytes _ (s.reg _ r)) hwf hdistinct hlt
      (by rw [hlen, valueBytes_length])
    exact ⟨s.afterExchange _ r ws rs, exec_xchg_mem r haccess, s.afterExchange_regs _ r ws rs,
      stored.trans (valueBytes_eq _ _), fun b hb => State.pokes_get_other _ ws _ b hb, by simp [State.afterExchange],
      by simp [State.afterExchange], by simp [systemKept, State.afterExchange], by simp [completed, State.afterExchange]⟩
  · obtain rfl : s.afterExchange (opWidth w s.os) r ws ws = t := by
      rw [exec_xchg_mem r haccess] at hnext; exact Host.Outcome.next.inj hnext
    have hbefore : ∀ d ∈ before, d.addr ≠ c.addr := fun d hd => hothers d (List.mem_append_left _ hd)
    have hafter : ∀ d ∈ after, d.addr ≠ c.addr := fun d hd => hothers d (List.mem_append_right _ hd)
    rw [s.afterExchange_coproc, hsplit]
    refine ⟨fun hout => splitSeen_unseen _ ws c after hafter before 0 fun hin => absurd hin hout, fun j hj => ?_⟩
    have hmem : c.addr ∈ ws := List.mem_of_getElem? hj
    have hread : (bytesOf (opWidth w s.os) ((s.afterExchange (opWidth w s.os) r ws ws).reg _ r))[j]? = some (s.peek c.addr) := by
      rw [State.reg, s.afterExchange_regs, Regs.read_write_same, s.valueAt_peek _ _ (s.accessRmw_ok _ _ _ _ _ haccess).1,
        List.getElem?_map, hj]
      rfl
    have hpeek := pendingByte_one s.draws c after hafter before hbefore 0 (Memory.get s.mem c.addr)
    rw [← hsplit] at hpeek
    simp only [hread, State.peek, hpeek]
    cases hseen : Config.coprocSeen s.draws c.addr (0 + before.length) with
    | true => exact .inr ⟨rfl, splitSeen_seen s.draws ws c after hafter before hbefore 0 hmem hseen⟩
    | false => exact .inl ⟨rfl, splitSeen_unseen s.draws ws c after hafter before 0 fun _ => hseen⟩
  · refine ⟨s.afterSwap s.os.width .n0 r, rfl, s.afterSwap_first _ _ r, s.afterSwap_second _ _ r, ?_, fun q hq => ?_,
      fun hos q => ?_, rfl, rfl, s.afterSwap_memKept _ _ r, s.afterSwap_systemKept _ _ r, s.afterSwap_completed _ _ r⟩
    · rintro rfl
      rw [s.afterSwap_regs, State.reg, Regs.write_read, Regs.write_read]
    · simp only [List.mem_cons, List.not_mem_nil, or_false, not_or] at hq
      rw [s.afterSwap_regs, Regs.get_write_other _ _ _ _ _ (by rw [regHome_os]; exact hq.1),
        Regs.get_write_other _ _ _ _ _ (by rw [regHome_os]; exact hq.2)]
    · rw [s.afterSwap_regs, hos]
      exact (Regs.get_write_high _ _ _ _).trans (Regs.get_write_high _ _ _ _)

end Sys2Proof.Machine
end

section
/-! The check of an access, condition by condition; the addresses of an operand; a store read back. -/

namespace Sys2Proof.Machine

/-! ## The segment checks (20_memory R74–R77, 60_exceptions R415) -/

section
variable (s : State) (seg : SReg) (off n : Nat) (k : Access)

theorem limitExc_eq : limitExc seg = if seg = .ss then .ss else .gp := by cases seg <;> rfl

theorem isDataReg_iff : isDataReg seg = true ↔ seg ≠ .cs ∧ seg ≠ .ss := by cases seg <;> simp [isDataReg]

theorem Access.reads_iff : k.reads = true ↔ k ≠ .write := by cases k <;> simp [Access.reads]

theorem Access.writes_iff : k.writes = true ↔ k ≠ .read := by cases k <;> simp [Access.writes]

/-- In real and V86 mode the last byte of an access lies in the first 64 Kbytes. -/
theorem State.segCheck_of_ne_prot (h : s.mode ≠ .prot) :
    s.segCheck seg off n k = if off + n - 1 ≤ 0xFFFF then .ok () else raise (if seg = .ss then .ss else .gp) 0 := by
  have swap : 0x10000 < off + n ↔ ¬off + n - 1 ≤ 0xFFFF := by omega
  rw [← limitExc_eq]
  unfold State.segCheck
  cases hmode : s.mode with
  | prot => exact absurd hmode h
  | real | v86 => simp only [swap, ite_not]

/-- In protected mode the conditions are tested in their order. -/
theorem State.segCheck_prot (h : s.mode = .prot) :
    s.segCheck seg off n k =
      if (seg ≠ .cs ∧ seg ≠ .ss) ∧ (nullSel (s.seg seg).selector = true ∨ (s.seg seg).valid = false) then raise .gp 0
      else if seg = .ss ∧ (s.seg seg).cache.present = false then raise .ss ((s.seg seg).selector &&& 0xFFFC)
      else if (seg ≠ .cs ∧ seg ≠ .ss) ∧ (s.seg seg).cache.present = false then raise .np ((s.seg seg).selector &&& 0xFFFC)
      else if k ≠ .write ∧ (s.seg seg).cache.isExecuteOnly = true then raise .gp 0
      else if k ≠ .read ∧ (s.seg seg).cache.isWritable = false then raise .gp 0
      else if (s.seg seg).cache.inLimit off n = false then raise (if seg = .ss then .ss else .gp) 0
      else .ok () := by
  unfold State.segCheck
  simp only [h, Bool.and_eq_true, Bool.or_eq_true, Bool.not_eq_true', isDataReg_iff, Access.reads_iff, Access.writes_iff,
    beq_iff_eq, limitExc_eq, selCode, and_comm (a := (s.seg seg).cache.present = false)]

end

/-! ## Walks and accesses (R78, R84) -/

section
variable {s : State} {seg : SReg} {off n : Nat} {write : Bool}

/-- A walk of n bytes is the walk of each. -/
theorem State.walk_of_pageWalk {ps : Nat → Nat} (h : ∀ j, j < n → s.pageWalk (s.linear seg (off + j)) write = .ok (ps j)) :
    s.walk seg off write n = .ok ((List.range n).map ps) := by
  induction n generalizing off ps with
  | zero => rfl
  | succ n ih =>
    have hrest := ih (off := off + 1) (ps := ps ∘ Nat.succ) fun j hj => by
      rw [Nat.add_assoc, Nat.add_comm 1 j]; exact h (j + 1) (by omega)
    have hfirst := h 0 (by omega)
    rw [Nat.add_zero] at hfirst
    rw [List.range_succ_eq_map, List.map_cons, List.map_map]
    exact Res.bind_ok.2 ⟨_, hfirst, Res.bind_ok.2 ⟨_, hrest, rfl⟩⟩

/-- A walk of n bytes stops at the first that stops. -/
theorem State.walk_error_of_first {j : Nat} {e : Stop} (hj : j < n)
    (hbefore : ∀ i, i < j → ∃ p, s.pageWalk (s.linear seg (off + i)) write = .ok p)
    (h : s.pageWalk (s.linear seg (off + j)) write = .error e) : s.walk seg off write n = .error e := by
  induction n generalizing off j with
  | zero => exact absurd hj (Nat.not_lt_zero j)
  | succ n ih =>
    cases j with
    | zero => exact Res.bind_error.2 (.inl h)
    | succ j =>
      obtain ⟨p, hp⟩ := hbefore 0 (by omega)
      have shift : ∀ i, off + 1 + i = off + (i + 1) := fun i => by omega
      have hrest := ih (off := off + 1) (j := j) (by omega)
        (fun i hi => by rw [shift]; exact hbefore (i + 1) (by omega)) (by rw [shift]; exact h)
      exact Res.bind_error.2 (.inr ⟨p, hp, Res.bind_error.2 (.inl hrest)⟩)

/-- With paging off the n bytes are those from the linear address, modulo 2^32. -/
theorem State.walk_off (h : s.paging = false) :
    s.walk seg off write n = .ok ((List.range n).map fun j => (s.linear seg (off + j)).toNat) :=
  State.walk_of_pageWalk fun _ _ => s.pageWalk_off _ _ h

theorem State.allPopulated_iff {ps : List Nat} : s.allPopulated ps = .ok () ↔ ∀ p ∈ ps, s.populatedAt p = .ok () := by
  induction ps with
  | nil => simp [State.allPopulated]
  | cons p ps ih =>
    simp only [State.allPopulated, Res.bind_ok, ih, List.forall_mem_cons]
    exact ⟨fun ⟨_, hp, hrest⟩ => ⟨hp, hrest⟩, fun ⟨hp, hrest⟩ => ⟨(), hp, hrest⟩⟩

/-- Some bytes are populated when each is. -/
theorem State.allPopulated_range {ps : Nat → Nat} (h : ∀ j, j < n → s.populatedAt (ps j) = .ok ()) :
    s.allPopulated ((List.range n).map ps) = .ok () := by
  refine State.allPopulated_iff.2 fun p hp => ?_
  obtain ⟨j, hj, rfl⟩ := List.mem_map.1 hp
  exact h j (List.mem_range.1 hj)

/-- An access passes where its segment check, its walk and its memory do. -/
theorem State.access_of_walk {k : Access} {ps : Nat → Nat} (hcheck : s.segCheck seg off n k = .ok ())
    (hwalk : s.walk seg off k.writes n = .ok ((List.range n).map ps)) (h : ∀ j, j < n → s.populatedAt (ps j) = .ok ()) :
    s.access seg off n k = .ok ((List.range n).map ps) :=
  Res.bind_ok.2 ⟨_, hcheck, Res.bind_ok.2 ⟨_, hwalk, Res.bind_ok.2 ⟨_, State.allPopulated_range h, rfl⟩⟩⟩

/-- An access stops where its walk does. -/
theorem State.access_of_walk_error {k : Access} {e : Stop} (hcheck : s.segCheck seg off n k = .ok ())
    (hwalk : s.walk seg off k.writes n = .error e) : s.access seg off n k = .error e :=
  Res.bind_error.2 (.inr ⟨_, hcheck, Res.bind_error.2 (.inl hwalk)⟩)

/-- A read-modify-write passes where its segment check, both its walks and its memory do. -/
theorem State.accessRmw_of_walks {ws rs : Nat → Nat} (hcheck : s.segCheck seg off n .rmw = .ok ())
    (hws : s.walk seg off true n = .ok ((List.range n).map ws)) (hrs : s.walk seg off false n = .ok ((List.range n).map rs))
    (h : ∀ j, j < n → s.populatedAt (ws j) = .ok () ∧ s.populatedAt (rs j) = .ok ()) :
    s.accessRmw seg off n = .ok ((List.range n).map ws, (List.range n).map rs) :=
  Res.bind_ok.2 ⟨_, hcheck, Res.bind_ok.2 ⟨_, hws, Res.bind_ok.2 ⟨_, hrs,
    Res.bind_ok.2 ⟨_, State.allPopulated_range fun j hj => (h j hj).1,
      Res.bind_ok.2 ⟨_, State.allPopulated_range fun j hj => (h j hj).2, rfl⟩⟩⟩⟩⟩

/-- With paging on a walk that does not fault answers. -/
theorem State.pageWalk_of_no_fault (hp : s.paging = true) {lin : Dword} (h : ∀ c, ¬s.walkFaults lin write c) :
    ∃ p, s.pageWalk lin write = .ok p := by
  cases hwalk : s.pageWalk lin write with
  | ok p => exact ⟨p, rfl⟩
  | error e =>
    obtain ⟨c, hc, _⟩ := (s.pageWalk_error_iff lin write e hp).1 hwalk
    exact absurd hc (h c)

/-- With paging on a walk of n bytes raises the fault of the first byte whose walk faults. -/
theorem State.walk_of_firstFault (hp : s.paging = true) {j : Nat} {c : Word} (hj : j < n) (h : s.firstFault seg off write j c) :
    s.walk seg off write n = raisePf c (s.linear seg (off + j)) :=
  State.walk_error_of_first hj (fun i hi => State.pageWalk_of_no_fault hp (h.2 i hi))
    ((s.pageWalk_error_iff _ _ _ hp).2 ⟨c, h.1, rfl⟩)

/-- With paging on a walk of n bytes, none of which faults, answers. -/
theorem State.walk_of_no_fault (hp : s.paging = true)
    (h : ∀ i, i < n → ∀ d, ¬s.walkFaults (s.linear seg (off + i)) write d) : ∃ ps, s.walk seg off write n = .ok ps := by
  have each : ∀ i, ∃ p, i < n → s.pageWalk (s.linear seg (off + i)) write = .ok p := fun i => by
    by_cases hi : i < n
    · obtain ⟨p, hp⟩ := State.pageWalk_of_no_fault hp (h i hi)
      exact ⟨p, fun _ => hp⟩
    · exact ⟨0, fun hlt => absurd hlt hi⟩
  choose ps hps using each
  exact ⟨_, State.walk_of_pageWalk hps⟩

end

/-! ## Effective addresses in integers (20_memory R72, 30_encoding R114–R116) -/

theorem Disp16.value_eq (d : Disp16) : Disp16.value d = BitVec.ofInt 16 (Disp16.int d) := by
  cases d with
  | none | d8 v => rfl
  | d16 v => exact ((BitVec.ofInt_natCast 16 v.toNat).trans (BitVec.ofNat_toNat 16 v |>.trans v.setWidth_eq)).symm

theorem Disp32.value_eq (d : Disp32) : Disp32.value d = BitVec.ofInt 32 (Disp32.int d) := by
  cases d with
  | none | d8 v => rfl
  | d32 v => exact ((BitVec.ofInt_natCast 32 v.toNat).trans (BitVec.ofNat_toNat 32 v |>.trans v.setWidth_eq)).symm

/-- A 16-bit register is its number modulo 2^16. -/
theorem State.r16_eq (s : State) (i : RegNum) : s.r16 i = BitVec.ofInt 16 (((s.regs.get i).toNat % 2 ^ 16 : Nat) : Int) := by
  rw [BitVec.ofInt_natCast]
  apply BitVec.eq_of_toNat_eq
  simp [State.r16, BitVec.extractLsb'_toNat]

theorem State.get_eq_ofInt (s : State) (i : RegNum) : s.regs.get i = BitVec.ofInt 32 ((s.regs.get i).toNat : Int) := by
  rw [BitVec.ofInt_natCast, BitVec.ofNat_toNat, BitVec.setWidth_eq]

/-- The scaled index; number 4 is none. -/
theorem State.indexPart_eq (s : State) (ss : Scale) (i : RegNum) :
    s.indexPart ss i = BitVec.ofInt 32 (State.addressSum.scaled s ss i : Int) := by
  rw [BitVec.ofInt_natCast]
  unfold State.indexPart State.addressSum.scaled
  split
  · rfl
  · apply BitVec.eq_of_toNat_eq
    cases ss <;> simp [Scale.shift, Nat.shiftLeft_eq]

/-- The effective address is the sum of its parts, truncated: at AS = 16. -/
theorem State.ea_base16 (s : State) (b : Base16) (d : Disp16) :
    s.ea (.base16 b d) = (BitVec.ofInt 16 (s.addressSum (.base16 b d))).setWidth 32 := by
  cases b <;> simp only [State.ea, State.base16, State.r16_eq, Disp16.value_eq, State.addressSum, BitVec.ofInt_add]

/-- The same for a 32-bit base, and for a base and an index. -/
theorem State.ea_base32 (s : State) (b : RegNum) (d : Disp32) :
    s.ea (.base32 b d) = BitVec.ofInt 32 (s.addressSum (.base32 b d)) := by
  rw [State.addressSum, BitVec.ofInt_add, ← s.get_eq_ofInt, ← Disp32.value_eq, State.ea]

theorem State.ea_sib (s : State) (ss : Scale) (i b : RegNum) (d : Disp32) :
    s.ea (.sib ss i b d) = BitVec.ofInt 32 (s.addressSum (.sib ss i b d)) := by
  rw [State.addressSum, BitVec.ofInt_add, BitVec.ofInt_add, ← s.get_eq_ofInt, ← Disp32.value_eq, ← s.indexPart_eq, State.ea]

theorem State.ea_sibAbs (s : State) (ss : Scale) (i : RegNum) (d : Dword) :
    s.ea (.sibAbs ss i d) = BitVec.ofInt 32 (s.addressSum (.sibAbs ss i d)) := by
  rw [State.addressSum, BitVec.ofInt_add, ← s.indexPart_eq, BitVec.ofInt_natCast, BitVec.ofNat_toNat, BitVec.setWidth_eq,
    State.ea]

theorem toNat_ofInt_cast (n : Nat) (z : Int) : ((BitVec.ofInt n z).toNat : Int) = z % 2 ^ n := by
  rw [BitVec.toNat_ofInt]
  exact Int.toNat_of_nonneg (Int.emod_nonneg _ (by positivity))

/-- The effective address as an integer. -/
theorem State.ea_toInt (s : State) (m : Mem) : ((s.ea m).toNat : Int) = s.addressSum m % 2 ^ memBits m := by
  cases m with
  | base16 b d => rw [s.ea_base16, BitVec.toNat_setWidth_of_le (by decide), toNat_ofInt_cast, memBits]
  | abs16 d =>
    rw [State.ea, State.addressSum, memBits, BitVec.toNat_setWidth_of_le (by decide)]
    exact_mod_cast (Nat.mod_eq_of_lt d.isLt).symm
  | base32 b d => simp only [s.ea_base32, toNat_ofInt_cast, memBits]
  | abs32 d =>
    simp only [State.ea, State.addressSum, memBits]
    exact_mod_cast (Nat.mod_eq_of_lt d.isLt).symm
  | sib ss i b d => simp only [s.ea_sib, toNat_ofInt_cast, memBits]
  | sibAbs ss i d => simp only [s.ea_sibAbs, toNat_ofInt_cast, memBits]

theorem defaultSeg_eq (m : Mem) : defaultSeg m = if stackBased m = true then .ss else .ds := by
  cases m with
  | base16 b d => cases b <;> rfl
  | base32 b d => cases b <;> rfl
  | sib ss i b d => cases b <;> rfl
  | abs16 d | abs32 d | sibAbs ss i d => rfl

theorem State.strIndex_toNat (s : State) :
    s.strIndex.toNat = s.regs.edi.toNat % (if s.as = .s32 then 2 ^ 32 else 2 ^ 16) := by
  unfold State.strIndex
  cases s.as with
  | s32 => exact (Nat.mod_eq_of_lt s.regs.edi.isLt).symm
  | s16 => rw [BitVec.toNat_setWidth_of_le (by decide), BitVec.toNat_setWidth]; rfl

/-- An ordinary segment holds n bytes from an offset when the last is not beyond its limit. -/
theorem Descriptor.inLimit_iff (d : Descriptor) (off n : Nat) (hkind : ∀ w, d.kind ≠ .data w true) (hn : 0 < n) :
    d.inLimit off n = true ↔ off + n - 1 ≤ d.limit.toNat := by
  have ordinary : d.inLimit off n = decide (off + n ≤ d.limit.toNat + 1) := by
    unfold Descriptor.inLimit
    split
    next w hk => exact absurd hk (hkind w)
    · rfl
  rw [ordinary, decide_eq_true_iff]
  omega

/-- A page fault outside real mode. -/
theorem conclude_raisePf (s : State) (c : Word) (lin : Dword) (h : s.mode ≠ .real) :
    conclude s (raisePf c lin) = .fault (.raised .pf (some c) { s with cr2 := lin, cur := Cur.idle }) := by
  unfold raisePf conclude stopped
  simp only [s.reportedCode_of_ne_real _ h]
  rfl

/-! ## A store read back (R81, R83) -/

/-- What may be written may be read. -/
theorem State.segCheck_read_of_write {s : State} {seg : SReg} {off n : Nat} (h : s.segCheck seg off n .write = .ok ()) :
    s.segCheck seg off n .read = .ok () := by
  by_cases hmode : s.mode = .prot
  · have notExecuteOnly : (s.seg seg).cache.isWritable = true → (s.seg seg).cache.isExecuteOnly = false := by
      unfold Descriptor.isWritable Descriptor.isExecuteOnly
      cases (s.seg seg).cache.kind <;> simp
    rw [s.segCheck_prot _ _ _ _ hmode] at h ⊢
    split_ifs at h with h3 h4 h5 h6 h7 h8
    all_goals cases h
    have writable : (s.seg seg).cache.isWritable = true := by simpa using h7
    have readable : ¬(Access.read ≠ .write ∧ (s.seg seg).cache.isExecuteOnly = true) := fun hx =>
      Bool.false_ne_true ((notExecuteOnly writable).symm.trans hx.2)
    rw [if_neg h3, if_neg h4, if_neg h5, if_neg readable, if_neg fun hw => hw.1 rfl, if_neg h8]
  · rw [s.segCheck_of_ne_prot _ _ _ _ hmode] at h ⊢
    exact h

/-- With paging off a write and a read of the same bytes reach the same addresses. -/
theorem State.access_read_of_write {s : State} {seg : SReg} {off n : Nat} {ps : List Nat} (hp : s.paging = false)
    (h : s.access seg off n .write = .ok ps) :
    s.access seg off n .read = .ok ps ∧ ps = (List.range n).map (fun j => (s.linear seg (off + j)).toNat) ∧
      s.allPopulated ps = .ok () := by
  simp only [State.access, State.walk_off hp, Res.bind_ok, Res.pure_ok] at h ⊢
  obtain ⟨_, hcheck, qs, hqs, _, hpopulated, rfl⟩ := h
  cases hqs
  exact ⟨⟨(), State.segCheck_read_of_write hcheck, _, rfl, (), hpopulated, rfl⟩, rfl, hpopulated⟩

/-- Up to 2^32 consecutive offsets lie at distinct linear addresses. -/
theorem State.linear_nodup (s : State) (seg : SReg) (off n : Nat) (hn : n ≤ 2 ^ 32) :
    ((List.range n).map fun j => (s.linear seg (off + j)).toNat).Nodup := by
  refine List.Nodup.map_on (fun i hi j hj h => ?_) List.nodup_range
  rw [List.mem_range] at hi hj
  have same : BitVec.ofNat 32 (off + i) = BitVec.ofNat 32 (off + j) :=
    BitVec.add_right_inj _ |>.1 (BitVec.eq_of_toNat_eq h)
  have hmod := congrArg BitVec.toNat same
  simp only [BitVec.toNat_ofNat] at hmod
  omega

/-- With no store pending the processor sees what memory holds. -/
theorem State.peek_of_none (s : State) (a : Nat) (h : s.coproc = []) : s.peek a = Memory.get s.mem a := by
  rw [State.peek, h]; rfl

/-- A store makes no coprocessor store pending. -/
theorem State.pokes_coproc_nil (s : State) (ps : List Nat) (bs : List Byte) (h : s.coproc = []) :
    (s.pokes ps bs).coproc = [] := by
  induction ps generalizing s bs with
  | nil => exact h
  | cons p ps ih =>
    cases bs with
    | nil => exact h
    | cons b bs => exact ih (s.poke p b) bs (by rw [State.poke, h]; rfl)

/-- The checks of an access do not depend on what memory holds. -/
theorem sameChecks_pokes (s : State) (ps : List Nat) (bs : List Byte) : SameChecks s (s.pokes ps bs) where
  cr0 := s.pokes_cr0 ps bs
  vm := by rw [s.pokes_eflags]
  segs := s.pokes_segs ps bs
  pages := s.pokes_pages ps bs
  populated := s.pokes_populated ps bs

/-- A value is what its bytes make. -/
theorem valueAt_of_peek (s : State) (w : Width) (ps : List Nat) (v : BitVec w.bits) (h : ps.map s.peek = valueBytes w v) :
    s.valueAt w ps = v := by
  have hlt : v.toNat < 256 ^ w.bytes := by
    have := v.isLt
    cases w <;> exact this
  rw [State.valueAt, h, valueBytes, leNat_leBytes _ _ hlt, BitVec.ofNat_toNat, BitVec.setWidth_eq]

/-! ## The statements about memory -/

/-- Settles O10: the conditions are the model's tests, in their order. -/
theorem segmentChecks : Obligations.SegmentChecks := by
  unfold Obligations.SegmentChecks
  intro s seg off n k
  refine ⟨s.segCheck_of_ne_prot seg off n k, fun hmode => ?_⟩
  intro r dataReg c3 c4 c5 c6 c7 c8
  have hcheck : s.segCheck seg off n k =
      if c3 then raise .gp 0 else if c4 then raise .ss (r.selector &&& 0xFFFC)
      else if c5 then raise .np (r.selector &&& 0xFFFC) else if c6 then raise .gp 0
      else if c7 then raise .gp 0 else if c8 then raise (if seg = .ss then .ss else .gp) 0 else .ok () :=
    s.segCheck_prot seg off n k hmode
  have apart : c5 → ¬c4 := fun h5 h4 => h5.1.2 h4.1
  refine ⟨fun h3 => ?_, fun h3 h4 => ?_, fun h3 h5 => ?_, fun h3 h4 h5 h67 => ?_, fun h3 h4 h5 h6 h7 h8 => ?_,
    fun h3 h4 h5 h6 h7 h8 => ?_⟩
  · rw [hcheck, if_pos h3]
  · rw [hcheck, if_neg h3, if_pos h4]
  · rw [hcheck, if_neg h3, if_neg (apart h5), if_pos h5]
  · by_cases h6 : c6
    · rw [hcheck, if_neg h3, if_neg h4, if_neg h5, if_pos h6]
    · rw [hcheck, if_neg h3, if_neg h4, if_neg h5, if_neg h6, if_pos (h67.resolve_left h6)]
  · rw [hcheck, if_neg h3, if_neg h4, if_neg h5, if_neg h6, if_neg h7, if_pos h8]
  · rw [hcheck, if_neg h3, if_neg h4, if_neg h5, if_neg h6, if_neg h7, if_neg h8]

/-- Settles O11: effective addresses; the bytes of an access with paging off and with paging on; the value read there. -/
theorem accessAddresses : Obligations.AccessAddresses := by
  unfold Obligations.AccessAddresses
  refine ⟨fun s m => ⟨s.ea_toInt m, fun r hr => ?_, fun hnone => ?_, s.strIndex_toNat⟩,
    fun s seg off n k hp hcheck hpop => State.access_of_walk hcheck (State.walk_off hp) hpop,
    fun s seg off n hp hcheck hpop => ?_, fun d off n => d.inLimit_iff off n, fun s seg off => rfl,
    fun s seg off n k hp hcheck => ⟨fun ps hps => ?_, fun j c hj hfault => ?_⟩,
    fun s seg off n hp hcheck => ⟨fun ws rs h => ?_, fun j c hj hfault => ?_, fun j c hj hwrites hfault => ?_⟩,
    fun s seg off w ps hc haccess => ?_, fun s m w ws rs hc haccess => ?_, fun s c lin => conclude_raisePf s c lin⟩
  · simp [State.memSeg, hr]
  · simp [State.memSeg, hnone, defaultSeg_eq]
  · exact State.accessRmw_of_walks hcheck (State.walk_off hp) (State.walk_off hp) fun j hj => ⟨hpop j hj, hpop j hj⟩
  · have hkind : (k != .read) = k.writes := by cases k <;> rfl
    rw [hkind] at hps
    exact State.access_of_walk hcheck
      (State.walk_of_pageWalk fun j hj => (s.pageWalk_ok_iff _ _ _ hp).2 (hps j hj).1) fun j hj => (hps j hj).2
  · have hkind : (k != .read) = k.writes := by cases k <;> rfl
    rw [hkind] at hfault
    exact State.access_of_walk_error hcheck (State.walk_of_firstFault hp hj hfault)
  · exact State.accessRmw_of_walks hcheck
      (State.walk_of_pageWalk fun j hj => (s.pageWalk_ok_iff _ _ _ hp).2 (h j hj).1)
      (State.walk_of_pageWalk fun j hj => (s.pageWalk_ok_iff _ _ _ hp).2 (h j hj).2.1) fun j hj => (h j hj).2.2
  · exact Res.bind_error.2 (.inr ⟨_, hcheck, Res.bind_error.2 (.inl (State.walk_of_firstFault hp hj hfault))⟩)
  · obtain ⟨ws, hws⟩ := State.walk_of_no_fault hp hwrites
    exact Res.bind_error.2 (.inr ⟨_, hcheck, Res.bind_error.2 (.inr ⟨ws, hws,
      Res.bind_error.2 (.inl (State.walk_of_firstFault hp hj hfault))⟩)⟩)
  · exact ⟨s.valueAt w ps, (s.memRead_ok _ _ _ _).2 ⟨ps, haccess, rfl⟩,
      s.valueAt_bytes w ps hc (s.access_ok _ _ _ _ _ haccess).1⟩
  · exact ⟨s.valueAt w rs, Res.bind_ok.2 ⟨_, haccess, rfl⟩,
      s.valueAt_bytes w rs hc (s.accessRmw_ok _ _ _ _ _ haccess).2.1⟩

/-- Settles O12: the read reaches the addresses the store wrote, which are distinct. -/
theorem storeThenLoad : Obligations.StoreThenLoad := by
  unfold Obligations.StoreThenLoad
  intro s t seg off w v hwf hp hc hstore
  obtain ⟨ps, hwrite, rfl⟩ := (s.memWrite_ok t seg off w v).1 hstore
  have same := sameChecks_pokes s ps (valueBytes w v)
  obtain ⟨hread, hps, hpopulated⟩ := State.access_read_of_write hp hwrite
  obtain ⟨hlen, hlt⟩ := s.access_ok _ _ _ _ _ hwrite
  have hsmall : w.bytes ≤ 2 ^ 32 := by cases w <;> decide
  have hdistinct : ps.Nodup := hps ▸ s.linear_nodup seg off w.bytes hsmall
  have stored := s.pokes_get ps (valueBytes w v) hwf hdistinct hlt (by rw [hlen, valueBytes_length])
  have seen : ps.map (s.pokes ps (valueBytes w v)).peek = valueBytes w v :=
    (List.map_congr_left fun a _ => State.peek_of_none _ a (s.pokes_coproc_nil _ _ hc)).trans stored
  refine ⟨(State.memRead_ok _ _ _ _ _).2 ⟨ps, by rw [same.access]; exact hread, (valueAt_of_peek _ w ps v seen).symm⟩,
    fun j hj hcheck => ?_⟩
  have haddr : ps[j]? = some (s.linear seg (off + j)).toNat := by
    rw [hps, List.getElem?_map, List.getElem?_range hj]; rfl
  have hbyte : (s.pokes ps (valueBytes w v)).peek (s.linear seg (off + j)).toNat = v.extractLsb' (8 * j) 8 := by
    have hj' := congrArg (·[j]?) (seen.trans (valueBytes_eq w v))
    simpa [bytesOf, haddr, List.getElem?_range hj] using hj'
  have haccess : s.access seg (off + j) 1 .read = .ok [(s.linear seg (off + j)).toNat] :=
    State.access_of_walk (ps := fun i => (s.linear seg (off + j + i)).toNat) (by rw [← same.segCheck]; exact hcheck)
      (State.walk_off hp) fun i hi => by
        obtain rfl : i = 0 := by omega
        exact State.allPopulated_iff.1 hpopulated _ (List.mem_of_getElem? haddr)
  refine (State.memRead_ok _ _ _ _ _).2 ⟨_, by rw [same.access]; exact haccess, (valueAt_of_peek _ .byte _ _ ?_).symm⟩
  rw [List.map_singleton, hbyte, valueBytes_eq]
  exact congrArg (fun b : Byte => [b]) BitVec.extractLsb'_eq_self.symm

end Sys2Proof.Machine
end

section
/-! The fetch of an instruction that memory holds; a step as the fetch of one item, or of a prefix byte and an item, and the
run of the instruction. -/

namespace Sys2Proof.Machine

/-! ## The bytes of an instruction (30_encoding R125) -/

/-- Operands take ten bytes at most. -/
theorem operands_bytes_length (o : Operands) : o.bytes.length ≤ 10 := by
  cases o with
  | none => exact Nat.zero_le _
  | rm reg x => have := Laws.rm_encode_length reg x; simp only [Operands.bytes]; omega
  | rmByte reg x v => have := Laws.rm_encode_length reg x; simp [Operands.bytes]; omega
  | rmImm reg x v =>
    have := Laws.rm_encode_length reg x
    have := Laws.imm_bytes_length v
    simp only [Operands.bytes, List.length_append]; omega
  | byte v => exact (by decide : 1 ≤ 10)
  | word v => exact (by decide : 2 ≤ 10)
  | imm v => have := Laws.imm_bytes_length v; simp only [Operands.bytes]; omega

/-- An instruction fits in the fetch. -/
theorem encode_length_le (c : Ctx) (i : Instr) (h : WellFormed c i = true) : (encode i).length ≤ maxLength := by
  obtain ⟨two, b, o, f, hbytes, _⟩ := item_encode c i h
  have hops := operands_bytes_length o
  have hprefix : (opcodePrefix two).length ≤ 1 := by cases two <;> decide
  rw [hbytes, List.length_append, List.length_cons, maxLength]
  omega

/-! ## The fetch (10_state R27, 20_memory R71) -/

/-- The address of the byte at EIP plus `j`. -/
theorem State.linear_cs (s : State) (j : Nat) :
    s.linear .cs (s.eip.toNat + j) = s.segs.cs.cache.base + (s.eip + BitVec.ofNat 32 j) := by
  show s.segs.cs.cache.base + BitVec.ofNat 32 (s.eip.toNat + j) = _
  rw [BitVec.ofNat_add, BitVec.ofNat_toNat, BitVec.setWidth_eq]

/-- The offset of a code byte lies inside the code segment. -/
def State.insideCs (s : State) (off : Nat) : Prop :=
  match s.mode with
  | .prot => s.segs.cs.cache.inLimit off 1 = true
  | _ => off ≤ 0xFFFF

/-- With paging off and nothing stale or pending, a code byte inside the limit is the one memory holds. -/
theorem State.codeByte_of_memory {s : State} {j : Nat} (hp : s.paging = false) (hstale : s.stale = [])
    (hcoproc : s.coproc = []) (hinside : s.insideCs (s.eip.toNat + j))
    (hpop : s.populatedAt (s.segs.cs.cache.base + (s.eip + BitVec.ofNat 32 j)).toNat = .ok ()) :
    s.codeByte (s.eip.toNat + j) =
      .ok (Memory.get s.mem (s.segs.cs.cache.base + (s.eip + BitVec.ofNat 32 j)).toNat) := by
  have seen : ∀ a, s.peekCode a = Memory.get s.mem a := fun a => by
    rw [State.peekCode, hstale]
    exact s.peek_of_none a hcoproc
  have inside : stopIf (!match s.mode with
      | .prot => s.segs.cs.cache.inLimit (s.eip.toNat + j) 1
      | _ => decide (s.eip.toNat + j ≤ 0xFFFF)) (raise .gp 0) = .ok () := by
    unfold State.insideCs at hinside
    cases hmode : s.mode <;> simp_all
  rw [← s.linear_cs] at hpop ⊢
  exact Res.bind_ok.2 ⟨(), inside, Res.bind_ok.2 ⟨_, s.pageWalk_off _ _ hp, Res.bind_ok.2 ⟨(), hpop, by rw [← seen]; rfl⟩⟩⟩

/-- Bytes that can be fetched begin what is fetched. -/
theorem State.codeBytes_of_bytes {s : State} (bs : List Byte) (off n : Nat) (hn : bs.length ≤ n)
    (h : ∀ j, j < bs.length → s.codeByte (off + j) = .ok (bs.getD j 0)) :
    ∃ more stop, s.codeBytes off n = (bs ++ more, stop) := by
  induction bs generalizing off n with
  | nil => exact ⟨_, _, rfl⟩
  | cons b bs ih =>
    obtain ⟨n, rfl⟩ : ∃ m, n = m + 1 := ⟨n - 1, by simp at hn; omega⟩
    have hfirst : s.codeByte off = .ok b := h 0 (by simp)
    obtain ⟨more, stop, hrest⟩ := ih (off + 1) n (by simpa using hn) fun j hj => by
      have hnext := h (j + 1) (by simpa using hj)
      rwa [show off + (j + 1) = off + 1 + j by omega] at hnext
    refine ⟨more, stop, ?_⟩
    simp only [State.codeBytes, hfirst, hrest, List.cons_append]

/-- Where the bytes from EIP begin with the encoding of an instruction, the fetch answers it. -/
theorem State.fetchItem_of_bytes {s : State} {i : Instr} (hcur : s.cur.len = 0) (hwf : WellFormed s.ctx i = true)
    (h : ∀ j, j < (encode i).length → s.codeByte (s.eip.toNat + j) = .ok ((encode i).getD j 0)) :
    s.fetchItem = .ok (i, (encode i).length) := by
  obtain ⟨more, stop, hbytes⟩ := State.codeBytes_of_bytes (encode i) s.eip.toNat maxLength (encode_length_le _ i hwf) h
  have hdecode := (decodeItem_iff_encode s.ctx (encode i ++ more) more i).2 ⟨hwf, rfl⟩
  simp only [State.fetchItem, hcur, Nat.add_zero, Nat.sub_zero, hbytes, hdecode, List.length_append, Nat.add_sub_cancel]

/-! ## One item of an instruction (30_encoding R111) -/

section
variable {s : State} {i : Instr} {len : Nat} (hfetch : s.fetchItem = .ok (i, len))
include hfetch

theorem runItems_prefix (fuel : Nat) {u : State} (hi : isPfx i = true) (hexec : exec i s = .next u) :
    runItems (fuel + 1) s = runItems fuel u := by
  simp only [runItems, hfetch, hi, hexec, if_true]

theorem runItems_instruction (fuel : Nat) (hi : isPfx i = false) (hfit : prefixesFit s.cur i = .ok ()) :
    runItems (fuel + 1) s = exec i (s.begin len) := by
  simp only [runItems, hfetch, hi, hfit, Bool.false_eq_true, if_false]

theorem runItems_refused (fuel : Nat) (hi : isPfx i = false) {r : Refusal} (hfit : prefixesFit s.cur i = refuse r) :
    runItems (fuel + 1) s = .refused r := by
  simp only [runItems, hfetch, hi, hfit, Bool.false_eq_true, if_false]
  rfl

end

/-- An instruction may always do without prefixes. -/
theorem prefixesFit_idle (i : Instr) : prefixesFit Cur.idle i = .ok () := rfl

/-- A LOCK prefix is refused (R136). -/
theorem prefixesFit_lock (c : Cur) (i : Instr) (h : c.lock = true) : prefixesFit c i = refuse (.lockPrefix (lockable i)) :=
  if_pos h

/-- A step with TF 0 that takes no interrupt runs the items of an instruction. -/
theorem step_runs {s : State} (htf : flag s.eflags .tf = false) (hint : s.sample.interrupted = false) :
    step s = counted (runItems 16 { s.sample with cur := Cur.idle }) := by
  have htf' : flag s.sample.eflags .tf = false := by rw [State.sample_eflags, htf]
  simp only [step, stepSampled_eq, htf', hint, Bool.false_eq_true, if_false]

/-- EIP moved, in integers. -/
theorem State.eipPlus_toNat (s : State) (n : Nat) :
    (s.eipPlus n).toNat =
      (s.eip.toNat + n) % (if s.mode = .prot ∧ s.segs.cs.cache.big = true then 2 ^ 32 else 2 ^ 16) := by
  have hsum : (s.eip + BitVec.ofNat 32 n).toNat = (s.eip.toNat + n) % 2 ^ 32 := by
    rw [BitVec.toNat_add, BitVec.toNat_ofNat, Nat.add_mod_mod]
  unfold State.eipPlus
  rw [s.defaultSize_eq]
  split_ifs
  · exact hsum
  · rw [BitVec.toNat_setWidth_of_le (by decide), BitVec.toNat_setWidth, hsum, Nat.mod_mod_of_dvd _ (by decide)]

/-! ## The statements about the fetch and the step -/

/-- Settles O5: the bytes at CS:EIP are those the fetch reads, and they decode to the instruction. -/
theorem fetchReadsMemory : Obligations.FetchReadsMemory := by
  unfold Obligations.FetchReadsMemory
  intro s i hcur hp hstale hcoproc hwf h
  refine State.fetchItem_of_bytes (by rw [hcur]; rfl) hwf fun j hj => ?_
  obtain ⟨hinside, hpop, hbyte⟩ := h j hj
  rw [← hbyte]
  exact State.codeByte_of_memory hp hstale hcoproc hinside hpop

/-- Settles O4: the step fetches the instruction, or a prefix byte and then the instruction. -/
theorem stepRunsInstruction : Obligations.StepRunsInstruction := by
  unfold Obligations.StepRunsInstruction
  refine ⟨fun s p n => ?_, fun s n => ⟨?_, rfl⟩⟩
  · intro s₀ count htf hint hfetch
    have hcount : count = counted := by funext o; cases o <;> rfl
    have hstep : step s = count (runItems 16 s₀) := by rw [hcount]; exact step_runs htf hint
    refine ⟨fun hp => ?_, fun u i len hp hu hfetchu hi => ⟨fun hfit => ?_, ?_⟩⟩
    · rw [hstep, runItems_instruction hfetch 15 hp (prefixesFit_idle p)]
    · rw [hstep, runItems_prefix hfetch 15 hp hu, runItems_instruction hfetchu 14 hi hfit]
    · rintro rfl
      have hlock : u.cur.lock = true := by
        rw [← Host.Outcome.next.inj hu]; rfl
      rw [hstep, runItems_prefix hfetch 15 hp hu, runItems_refused hfetchu 14 hi (prefixesFit_lock _ i hlock)]
  · show (s.eipPlus (s.cur.len + n)).toNat = _
    rw [s.eipPlus_toNat, Nat.add_assoc]

end Sys2Proof.Machine
end

section
/-! Exceptions are precise: every access of an instruction that stops, those before it passing, stops the instruction; and the
state an exception leaves. -/

namespace Sys2Proof.Machine

/-! ## A computation that stops -/

/-- A computation in two parts stops where its first part does. -/
theorem Res.stops_first {α β : Type} {x : Res α} {f : α → Res β} {e : Stop} (h : x = .error e) : (x >>= f) = .error e :=
  Res.bind_error.2 (.inl h)

/-- It stops where its second part does, the first answering. -/
theorem Res.stops_after {α β : Type} {x : Res α} {f : α → Res β} {e : Stop} {a : α} (hx : x = .ok a) (h : f a = .error e) :
    (x >>= f) = .error e :=
  Res.bind_error.2 (.inr ⟨a, hx, h⟩)

/-- A guard whose condition does not hold lets a computation go on. -/
theorem Res.stops_past {α : Type} {c : Bool} {g : Res Unit} {f : Unit → Res α} {e : Stop} (hc : c = false) (h : f () = .error e) :
    (stopIf c g >>= f) = .error e := by
  rw [hc]; exact h

section
variable {s : State} {i : Instr} {e : Stop}

theorem exec_stops {x : Res State} (hexec : exec i s = conclude s x) (h : x = .error e) : exec i s = stopped s e := by
  rw [hexec, h]; rfl

theorem exec_shape_stops {k : Shape} (hi : shapeOf i = some k) (h : meaningOf k s = .error e) : exec i s = stopped s e :=
  exec_stops (exec_shape i k s hi) h

/-! ## One item of a series of pushes (40_stack R171) -/

/-- Where an item may be stored it is pushed. -/
theorem Pushed.push_of_access {u : State} {w : Width} {n : Nat} (h : Pushed s w n u) (v : BitVec w.bits) {ps : List Nat}
    (haccess : s.access .ss (s.spPlus (- BitVec.ofNat 32 (w.bytes * (n + 1)))).toNat w.bytes .write = .ok ps) :
    ∃ t, u.push w v = .ok t := by
  have hpush : u.access .ss (u.spPlus (- BitVec.ofNat 32 w.bytes)).toNat w.bytes .write = .ok ps := by
    rw [h.top_one, h.checks.access]; exact haccess
  exact ⟨_, (u.push_ok _ w v).2 ⟨u.lowStack_of_access _ _ ps hpush, ps, hpush, rfl⟩⟩

/-- A series stops at an item that may not be stored, where those before it may. -/
theorem pushItems_stops {u : State} {w : Width} {n j : Nat} {vs : List (BitVec w.bits)} (h : Pushed s w n u) (hj : j < vs.length)
    (hbefore : ∀ k, k < j →
      ∃ ps, s.access .ss (s.spPlus (- BitVec.ofNat 32 (w.bytes * (n + k + 1)))).toNat w.bytes .write = .ok ps)
    (hlow : ¬s.lowItem w (n + j + 1))
    (herror : s.access .ss (s.spPlus (- BitVec.ofNat 32 (w.bytes * (n + j + 1)))).toNat w.bytes .write = .error e) :
    State.pushItems w vs u = .error e := by
  induction vs generalizing u n j with
  | nil => exact absurd hj (Nat.not_lt_zero j)
  | cons v vs ih =>
    cases j with
    | zero => exact Res.stops_first (h.push_error.2 (.inr ⟨hlow, herror⟩))
    | succ j =>
      obtain ⟨ps, hps⟩ := hbefore 0 (Nat.succ_pos j)
      obtain ⟨t, hpush⟩ := h.push_of_access v hps
      have shift : ∀ k, n + 1 + k + 1 = n + (k + 1) + 1 := fun k => by omega
      refine Res.stops_after hpush (ih (h.push hpush) (by simpa using hj) (fun k hk => ?_) ?_ ?_)
      · rw [shift]; exact hbefore (k + 1) (by omega)
      · rw [shift]; exact hlow
      · rw [shift]; exact herror

/-! ## Shapes of the forms of the statements -/

theorem exec_double {i : Instr} {rm : RM} {r : RegNum} {n : Byte}
    (hi : i ∈ [Instr.shldImm rm r n, .shldCl rm r, .shrdImm rm r n, .shrdCl rm r]) :
    ∃ left count, exec i s = conclude s (doubleRm left rm r count s) := by
  simp only [List.mem_cons, List.not_mem_nil, or_false] at hi
  obtain rfl | rfl | rfl | rfl := hi <;> exact ⟨_, _, rfl⟩

/-- SBB, SUB and XOR modify their destination by their source. -/
theorem exec_arith {w : Bool} {f : ArithForm} (hi : i ∈ [sbbInstr w f, subInstr w f, xorInstr w f]) :
    ∃ op, exec i s = conclude s (f.meaning (opWidth w s.os) op s) := by
  simp only [List.mem_cons, List.not_mem_nil, or_false] at hi
  obtain rfl | rfl | rfl := hi
  · exact ⟨_, exec_subtraction s true w f⟩
  · exact ⟨_, exec_subtraction s false w f⟩
  · exact ⟨_, exec_xor s w f⟩

theorem exec_table {m : Mem} (hi : i ∈ [Instr.sgdt (.mem m), .sidt (.mem m)]) :
    ∃ g, exec i s = conclude s (storeTable g (.mem m) s) := by
  simp only [List.mem_cons, List.not_mem_nil, or_false] at hi
  obtain rfl | rfl := hi <;> exact ⟨_, rfl⟩

theorem exec_words {rm : RM} (hi : s.mode = .prot ∧ i ∈ [Instr.sldt rm, .str rm] ∨ i = .smsw rm) :
    ∃ v, exec i s = conclude s (storeWord v rm s) := by
  simp only [List.mem_cons, List.not_mem_nil, or_false] at hi
  obtain ⟨hprot, rfl | rfl⟩ | rfl := hi
  · exact ⟨_, exec_systemWord s _ _ rm (.inl ⟨hprot, .inl ⟨rfl, rfl⟩⟩)⟩
  · exact ⟨_, exec_systemWord s _ _ rm (.inl ⟨hprot, .inr ⟨rfl, rfl⟩⟩)⟩
  · exact ⟨_, exec_systemWord s _ _ rm (.inr ⟨rfl, rfl⟩)⟩

theorem exec_verify {rm : RM} (hi : i ∈ [Instr.verr rm, .verw rm]) :
    ∃ f, exec i s = conclude s (verifyRm f rm s) := by
  simp only [List.mem_cons, List.not_mem_nil, or_false] at hi
  obtain rfl | rfl := hi <;> exact ⟨_, rfl⟩

/-! ## Accesses that stop the operations -/

/-- An operand is written exactly where it may be. -/
theorem State.rmWrite_stops {w : Width} {rm : RM} (v : BitVec w.bits) (h : s.slot w rm = .error e) :
    s.rmWrite w rm v = .error e := by
  cases rm with
  | reg r => cases h
  | mem m => exact State.memWrite_error.2 h

theorem storeWord_stops {v : Word} {rm : RM} (h : s.slot .word rm = .error e) : storeWord v rm s = .error e := by
  cases rm with
  | reg r => cases h
  | mem m => exact Res.stops_first (State.memWrite_error.2 h)

theorem exchange_stops {w : Width} {rm : RM} {r : RegNum} (h : s.target w rm = .error e) : exchange w rm r s = .error e := by
  cases rm with
  | reg x => cases h
  | mem m =>
    refine Res.stops_first ?_
    simpa only [State.target, Res.bind_error, Res.pure_error, and_false, exists_false, or_false] using h

theorem repeated_none_stops {one : State → Res State} {ends : Rep → State → Bool} (hrep : s.cur.rep = none)
    (h : one s = .error e) : repeated one ends s = .error e := by
  unfold repeated
  rw [hrep]
  exact Res.stops_first h

theorem popMem_store_stops {m : Mem} {v : BitVec s.os.width.bits} (hv : s.stackRead 0 s.os.width = .ok v)
    (h : s.access (s.memSeg m) (s.popEa s.os.width m).toNat s.os.width.bytes .write = .error e) :
    popMem s.os.width m s = .error e := by
  have same : SameChecks s (s.release s.os.width.bytes) := ⟨rfl, rfl, rfl, rfl, rfl⟩
  exact Res.stops_after hv (Res.stops_first (State.memWrite_error.2 (by rw [same.access]; exact h)))

theorem popAll_stops {w : Width} {j : Nat} (htrap : ¬(s.mode = .v86 ∧ s.iopl ≠ 3 ∧ Config.v86PopaFaults = true)) (hj : j < 8)
    (hbefore : ∀ k, k < j → ∃ v, s.stackRead (w.bytes * k) w = .ok v) (h : s.stackRead (w.bytes * j) w = .error e) :
    popAll w s = .error e := by
  rw [popAll_eq]
  exact Res.stops_past (s.popAll_untrapped htrap) (Res.stops_first (s.popItems_error w 8 j e hj hbefore h))

theorem pushAll_stops {w : Width} {j : Nat} (hj : j < 8)
    (hbefore : ∀ k, k < j →
      ∃ ps, s.access .ss (s.spPlus (- BitVec.ofNat 32 (w.bytes * (k + 1)))).toNat w.bytes .write = .ok ps)
    (hlow : ¬s.lowItem w (j + 1))
    (h : s.access .ss (s.spPlus (- BitVec.ofNat 32 (w.bytes * (j + 1)))).toNat w.bytes .write = .error e) :
    pushAll w s = .error e := by
  rw [pushAll_eq]
  refine Res.stops_first (pushItems_stops (.none s w) (j := j) (by simpa [State.allItems] using hj) (fun k hk => ?_) ?_ ?_)
  · rw [Nat.zero_add]; exact hbefore k hk
  · rw [Nat.zero_add]; exact hlow
  · rw [Nat.zero_add]; exact h

theorem verifyRm_descriptor_stops {f : State → Word → Descriptor → Bool} {rm : RM} {sel code : Word} {lin : Dword}
    (hprot : s.mode = .prot) (hread : s.rmRead .word rm = .ok sel) (hle : 4 ≤ sel.toNat)
    (hdesc : s.desc sel = some (.pageFault code lin)) : verifyRm f rm s = .error (.exc .pf (some code) (some lin)) := by
  have hverify : s.verify sel (f s sel) = .error (.exc .pf (some code) (some lin)) := by
    rw [State.verify, nullSel_of_le hle, hdesc]; rfl
  exact (s.needProt_bind _ hprot).trans (Res.stops_after hread (Res.stops_first hverify))

/-! ## RET far (42_ret R235–R239) -/

section
variable {imm : Nat}

theorem retFarBy_limit_stops (hprot : s.mode = .prot)
    (hlimit : s.segs.ss.cache.inLimit (s.spPlus (BitVec.ofNat 32 s.os.width.bytes)).toNat 2 = false) :
    retFarBy imm s = .error (.exc .ss (some 0) none) := by
  rw [retFarBy, hprot]
  show retFarProt imm s = _
  rw [retFarProt, hlimit]
  rfl

theorem retFarBy_image_stops (hprot : s.mode = .prot)
    (hlimit : s.segs.ss.cache.inLimit (s.spPlus (BitVec.ofNat 32 s.os.width.bytes)).toNat 2 = true)
    (h : s.stackRead s.os.width.bytes s.os.width = .error e) : retFarBy imm s = .error e := by
  rw [retFarBy, hprot]
  exact Res.stops_past (by rw [hlimit]; rfl) (Res.stops_first h)

variable {x : BitVec s.os.width.bits}

theorem retFarBy_same_stops {d : Descriptor} (hframe : s.farFrame x) (hlevel : rpl (x.extractLsb' 0 16) = s.cpl)
    (hcode : s.returnCode (x.extractLsb' 0 16) = .ok d) (h : s.stackRead 0 s.os.width = .error e) :
    retFarBy imm s = .error e := by
  rw [retFarBy_same s imm x hframe hlevel]
  exact Res.stops_after hcode (Res.stops_first h)

theorem retFarBy_outerLimit_stops (hframe : s.farFrame x) (hlevel : s.cpl < rpl (x.extractLsb' 0 16))
    (hlimit : s.segs.ss.cache.inLimit (s.spPlus 0).toNat (4 * s.os.width.bytes + imm) = false) :
    retFarBy imm s = .error (.exc .ss (some 0) none) := by
  rw [retFarBy_outer s imm x hframe hlevel, retOuterLevel, hlimit]
  rfl

/-- Inside the limit the images of the frame are read in turn: SS, the stack pointer, the offset. -/
theorem retFarBy_outer_stops (hframe : s.outerFrame imm x)
    (h : s.stackRead (3 * s.os.width.bytes + imm) s.os.width = .error e ∨
      (∃ z, s.stackRead (3 * s.os.width.bytes + imm) s.os.width = .ok z) ∧
        (s.stackRead (2 * s.os.width.bytes + imm) s.os.width = .error e ∨
          (∃ y, s.stackRead (2 * s.os.width.bytes + imm) s.os.width = .ok y) ∧ s.stackRead 0 s.os.width = .error e)) :
    retFarBy imm s = .error e := by
  obtain ⟨hfar, hlevel, hlimit⟩ := hframe
  rw [retFarBy_outer s imm x hfar hlevel]
  refine Res.stops_past (by rw [hlimit]; rfl) ?_
  obtain h | ⟨⟨z, hz⟩, h | ⟨⟨y, hy⟩, h⟩⟩ := h
  · exact Res.stops_first h
  · exact Res.stops_after hz (Res.stops_first h)
  · exact Res.stops_after hz (Res.stops_after hy (Res.stops_first h))

end

/-! ## Every access of every instruction (60_exceptions R408) -/

/-- An access that stops, those before it passing, stops the instruction. -/
theorem denied_stops (h : Denied s i e) : exec i s = stopped s e := by
  cases h with
  | popReg i r e hi h => exact exec_shape_stops (k := .popReg r) (by obtain rfl | rfl := hi <;> rfl) (Res.stops_first h)
  | popMem m e h => exact exec_shape_stops (k := .popMem m) rfl (Res.stops_first h)
  | popMemStore m v e hv h => exact exec_shape_stops (k := .popMem m) rfl (popMem_store_stops hv h)
  | popSeg i r e hi h => exact exec_shape_stops (shapeOf_segPop hi) (Res.stops_first (Res.stops_first h))
  | popAll i w j e hi htrap hj hbefore h => exact exec_shape_stops (shapeOf_popAll hi) (popAll_stops htrap hj hbefore h)
  | popFlags i w e hi htrap h =>
    exact exec_shape_stops (shapeOf_popFlags hi)
      (Res.stops_past (s.v86Trapped_eq_false htrap) (Res.stops_first (Res.stops_first h)))
  | pushOperand f e h => exact exec_stops (exec_push s f) (Res.stops_first h)
  | pushItem f v e hv hlow h => exact exec_stops (exec_push s f) (Res.stops_after hv (pushValue_error.2 (.inr ⟨hlow, h⟩)))
  | pushAll i w j e hi hj hbefore hlow h => exact exec_shape_stops (shapeOf_pushAll hi) (pushAll_stops hj hbefore hlow h)
  | pushFlags i w e hi htrap hlow h =>
    exact exec_shape_stops (shapeOf_pushFlags hi)
      (Res.stops_past (s.v86Trapped_eq_false htrap) (pushValue_error.2 (.inr ⟨hlow, h⟩)))
  | shift op k w rm e h => exact exec_stops (exec_shiftInstr s op k w rm) (Res.stops_first (State.rmModify_error.2 h))
  | double i rm r n e hi h =>
    obtain ⟨left, count, hexec⟩ := exec_double (s := s) hi
    exact exec_stops hexec (Res.stops_first (State.rmModify_error.2 h))
  | arithSource i w f e hi h =>
    obtain ⟨op, hexec⟩ := exec_arith (s := s) hi
    exact exec_stops hexec (Res.stops_first h)
  | arithTarget i w f b e hi hb h =>
    obtain ⟨op, hexec⟩ := exec_arith (s := s) hi
    exact exec_stops hexec (Res.stops_after hb (Res.stops_first (State.rmModify_error.2 h)))
  | test w f e h => exact exec_stops (exec_test s w f) (Res.stops_first h)
  | xchg w rm r e h => exact exec_shape_stops (k := .xchg w rm r) rfl (exchange_stops h)
  | setcc c rm e h => exact exec_shape_stops (shapeOf_setInstr c rm) (Res.stops_first (State.rmWrite_stops _ h))
  | scas w e hrep h => exact exec_stops (exec_scas s w) (repeated_none_stops hrep (Res.stops_first h))
  | stos w e hrep h =>
    exact exec_stops (exec_stos s w) (repeated_none_stops hrep (Res.stops_first (State.memWrite_error.2 h)))
  | tableLimit i m e hi h =>
    obtain ⟨g, hexec⟩ := exec_table (s := s) hi
    exact exec_stops hexec (Res.stops_first (Res.stops_first h))
  | tableBase i m ps e hi hps h =>
    obtain ⟨g, hexec⟩ := exec_table (s := s) hi
    exact exec_stops hexec (Res.stops_first (Res.stops_after hps (Res.stops_first h)))
  | words i rm e hi h =>
    obtain ⟨v, hexec⟩ := exec_words hi
    exact exec_stops hexec (storeWord_stops h)
  | verify i rm e hprot hi h =>
    obtain ⟨f, hexec⟩ := exec_verify (s := s) hi
    exact exec_stops hexec ((s.needProt_bind _ hprot).trans (Res.stops_first h))
  | verifyDescriptor i rm sel code lin hprot hi hread hle hdesc =>
    obtain ⟨f, hexec⟩ := exec_verify (s := s) hi
    exact exec_stops hexec (verifyRm_descriptor_stops hprot hread hle hdesc)
  | xlatb e h =>
    have hoff : s.xlatOffset.toNat =
        (s.regs.ebx.toNat + s.regs.eax.toNat % 256) % (if s.as = .s32 then 2 ^ 32 else 2 ^ 16) := by
      cases has : s.as with
      | s32 => exact s.xlatOffset_s32 has
      | s16 => exact s.xlatOffset_s16 has
    exact exec_shape_stops (k := .xlatb) rfl (Res.stops_first (by rw [hoff]; exact h))
  | retNear i e hi h =>
    obtain ⟨imm, himm⟩ : ∃ imm, i = .retNear ∧ imm = 0 ∨ ∃ m, i = .retNearImm m ∧ imm = m.toNat := by
      obtain rfl | ⟨m, rfl⟩ := hi
      · exact ⟨_, .inl ⟨rfl, rfl⟩⟩
      · exact ⟨_, .inr ⟨m, rfl, rfl⟩⟩
    exact exec_stops (exec_retNear s i imm himm) (Res.stops_first h)
  | retFarOffset i imm e hi hmode h =>
    exact exec_stops (exec_retFar s i imm hi) ((retFarBy_real s imm hmode).trans (Res.stops_first h))
  | retFarSelector i imm v e hi hmode hv h =>
    exact exec_stops (exec_retFar s i imm hi) ((retFarBy_real s imm hmode).trans (Res.stops_after hv (Res.stops_first h)))
  | retFarLimit i imm hi hprot hlimit => exact exec_stops (exec_retFar s i imm hi) (retFarBy_limit_stops hprot hlimit)
  | retFarImage i imm e hi hprot hlimit h =>
    exact exec_stops (exec_retFar s i imm hi) (retFarBy_image_stops hprot hlimit h)
  | retSame i imm x d e hi hframe hlevel hle hdesc hcode hpresent hdpl h =>
    have hpasses := s.returnCode_passes _ hle hdesc (not_badReturnCode hcode (by rwa [hlevel])) hpresent
    exact exec_stops (exec_retFar s i imm hi) (retFarBy_same_stops hframe hlevel hpasses h)
  | retOuterLimit i imm x hi hframe hlevel hlimit =>
    exact exec_stops (exec_retFar s i imm hi) (retFarBy_outerLimit_stops hframe hlevel hlimit)
  | retOuterSs i imm x e hi hframe h =>
    exact exec_stops (exec_retFar s i imm hi) (retFarBy_outer_stops hframe (.inl h))
  | retOuterSp i imm x z e hi hframe hz h =>
    exact exec_stops (exec_retFar s i imm hi) (retFarBy_outer_stops hframe (.inr ⟨⟨z, hz⟩, .inl h⟩))
  | retOuterOffset i imm x y z e hi hframe hz hy h =>
    exact exec_stops (exec_retFar s i imm hi) (retFarBy_outer_stops hframe (.inr ⟨⟨z, hz⟩, .inr ⟨⟨y, hy⟩, h⟩⟩))

end

/-! ## The statement -/

/-- Settles O7: what a step can raise, and that a denied access stops its instruction. -/
theorem exceptionsArePrecise : Obligations.ExceptionsArePrecise := by
  unfold Obligations.ExceptionsArePrecise
  refine ⟨fun s a x code h => ?_, fun s i x code cr2 h => ?_, fun s i r h => denied_stops h⟩
  · obtain ⟨c, cr2, low, hstop, rfl, rfl⟩ := step_raised h
    have same := sameChecks_sample s
    have hstop := hstop.congr same s.sample_descs
    have hcode : s.mode ≠ .real → s.sample.reportedCode c = c := fun hreal =>
      s.sample.reportedCode_of_ne_real c (same.mode ▸ hreal)
    refine ⟨⟨cr2.getD s.cr2, ?_, fun hx => ?_⟩, ?_⟩
    · show s.sample.afterFault cr2 = _
      rw [State.afterFault, ← s.sample_cr2]
    · cases hstop with
      | coded | bare => rfl
      | page | descriptor => exact absurd rfl hx
    · rintro rfl
      cases hstop with
      | coded _ _ hx _ => simp at hx
      | bare _ hx => simp at hx
      | page c lin write hon hfault =>
        have hreal : s.mode ≠ .real := fun hreal => by simp [State.paging, hreal] at hon
        exact ⟨c, hcode hreal, .inl ⟨write, hon, hfault⟩⟩
      | descriptor c lin sel hprot hdesc =>
        exact ⟨c, hcode (by rw [hprot]; decide), .inr ⟨hprot, sel, hdesc⟩⟩
  · rw [denied_stops h]
    unfold stopped State.reportedCode State.afterFault
    cases s.mode <;> rfl

end Sys2Proof.Machine
end
